-- ==== Sys2Proof/Word.lean ====
section
/-! DEFINITION. The word types of the TXFQ block (spec/30_encoding.md R60, R61, R65; spec/00_scope.md R3). -/

namespace Sys2Proof

/-- One byte: a ring byte, a payload byte, a byte of a frame (R3, R11). -/
abbrev Byte := BitVec 8

/-- A command word `CW[39:0]` (R60, R61). -/
abbrev CommandWord := BitVec 40

/-- A response word `RW[47:0]` (R60, R65). -/
abbrev ResponseWord := BitVec 48

end Sys2Proof
end

