-- ==== Sys2Proof/Config.lean ====
section
/-! DEFINITION. The constants of the block (spec/00_scope.md R1, R2) and its two OPEN parameters
(spec/92_eei_decisions.md D31), and the one free value of the model. The checksum function, which R2 also names, stands in
Machine/Codec.lean. -/

namespace Sys2Proof

/-- `MAX_PAYLOAD_SIZE` (R1): the largest `payload_length` accepted. -/
abbrev Config.maxPayloadSize : Nat := 256

/-- `MAX_RETRIES` (R1): retransmissions allowed after a timeout. -/
abbrev Config.maxRetries : Nat := 2

/-- `RING_CAPACITY` (R1): bytes of the ring; ring indices are `0 .. ringCapacity - 1`. -/
abbrev Config.ringCapacity : Nat := 1024

/-- `RING_USABLE` (R2, D7): bytes of the ring that may be occupied at once. -/
abbrev Config.ringUsable : Nat := 1024

/-- `ACK_TIMEOUT_MS` (R1): length of the acknowledgment window. -/
abbrev Config.ackTimeoutMs : Nat := 50

/-- `PREAMBLE` (R1, R77). -/
abbrev Config.preamble : BitVec 16 := 0xFF7F

/-- `POSTAMBLE` (R1, R77). -/
abbrev Config.postamble : BitVec 16 := 0xDEDF

/-- `DIR_T2H` (R1, R76): wire code of target to host. -/
abbrev Config.dirT2H : Byte := 0xAA

/-- `DIR_H2T` (R1, R76): wire code of host to target. -/
abbrev Config.dirH2T : Byte := 0xBB

/-- `SRC_SIZE` (R1): bytes a stored request spends on its source. -/
abbrev Config.srcSize : Nat := 1

/-- `HDR_SIZE` (R1): bytes of a packet header. -/
abbrev Config.hdrSize : Nat := 4

/-- `FRAME_OVERHEAD` (R1): frame bytes besides the payload. -/
abbrev Config.frameOverhead : Nat := 12

/-- `MAX_PENDING` (R2, D24): the largest value of `pending_count`. -/
abbrev Config.maxPending : Nat := 204

/-- `DBG_SOURCE_ID` (R2, R82, D31): OPEN in the spec, so a free constant here. -/
opaque Config.dbgSourceId : BitVec 7

/-- `DBG_TYPE_CODE` (R2, R82, D31): OPEN in the spec, so a free constant here. -/
opaque Config.dbgTypeCode : Byte

/-- Whether a transport that no transaction has asked answers Busy: a free value, for an operation that is looked at
outside any transaction of the port (notes/assumptions/2). -/
opaque Config.busyWhenNotAsked : Bool

end Sys2Proof
end

