-- ==== Sys2Proof/Syntax.lean ====
section
/-! DEFINITION. The operations of the block, one constructor per row of spec/opcode_table.json
(spec/30_encoding.md R62, R66, R67). Operands are the fields of R61 and R63. -/

namespace Sys2Proof

/-- Header `direction`, the one-bit field `dir` of format W (R61, R63). -/
inductive Direction where
  /-- `dir = 0` -/
  | targetToHost
  /-- `dir = 1` -/
  | hostToTarget
deriving DecidableEq, Repr

/-- The operations of the command port. Reserved command bits are not operands: they are ignored (R64). -/
inductive Instr where
  /-- code 0x0, format N (R111) -/
  | init
  /-- code 0x1, format T (R112) -/
  | run (nowMs : BitVec 32)
  /-- code 0x2, format T (R120) -/
  | tickTimers (nowMs : BitVec 32)
  /-- code 0x3, format N (R121) -/
  | notifyAck
  /-- code 0x4, format N (R122) -/
  | notifyNack
  /-- code 0x5, format W, with the payload bytes that follow the word (R61, R68, R91) -/
  | writeRequest (srcId : BitVec 7) (ackRequired : Bool) (typeCode : Byte) (dir : Direction)
      (payloadLength : BitVec 16) (payload : List Byte)
  /-- code 0x6, format N (R93) -/
  | fetchRequest
  /-- code 0x7, format N (R94) -/
  | pendingCount
  /-- code 0x8, format N: not issuable on the port (R67) -/
  | readRequest
  /-- code 0x9, reserved (R66) -/
  | reserved9
  /-- code 0xA, reserved (R66) -/
  | reservedA
  /-- code 0xB, reserved (R66) -/
  | reservedB
  /-- code 0xC, reserved (R66) -/
  | reservedC
  /-- code 0xD, reserved (R66) -/
  | reservedD
  /-- code 0xE, reserved (R66) -/
  | reservedE
  /-- code 0xF, reserved (R66) -/
  | reservedF
deriving DecidableEq, Repr

/-- The operation code of each operation (R62). -/
def Instr.opcode : Instr → BitVec 4
  | .init => 0x0
  | .run _ => 0x1
  | .tickTimers _ => 0x2
  | .notifyAck => 0x3
  | .notifyNack => 0x4
  | .writeRequest _ _ _ _ _ _ => 0x5
  | .fetchRequest => 0x6
  | .pendingCount => 0x7
  | .readRequest => 0x8
  | .reserved9 => 0x9
  | .reservedA => 0xA
  | .reservedB => 0xB
  | .reservedC => 0xC
  | .reservedD => 0xD
  | .reservedE => 0xE
  | .reservedF => 0xF

end Sys2Proof
end

