-- ==== Sys2Proof/WellFormed.lean ====
section
/-! DEFINITION. Which operations a command can express: the only relation between operands is the length of a
WRITE_REQUEST (spec/30_encoding.md R61, R68). -/

namespace Sys2Proof

/-- A length the block accepts is followed by exactly that many payload bytes (R61). -/
def payloadComplete (payloadLength : BitVec 16) (payload : List Byte) : Bool :=
  decide (payloadLength.toNat ≤ Config.maxPayloadSize → payload.length = payloadLength.toNat)

/-- A length above the maximum is followed by no byte that belongs to the command (R68). -/
def payloadAbsent (payloadLength : BitVec 16) (payload : List Byte) : Bool :=
  decide (Config.maxPayloadSize < payloadLength.toNat → payload = [])

/-- The operations that some command expresses (R61, R68). -/
def Instr.wellFormed : Instr → Bool
  | .init => true
  | .run _ => true
  | .tickTimers _ => true
  | .notifyAck => true
  | .notifyNack => true
  | .writeRequest _ _ _ _ payloadLength payload =>
      payloadComplete payloadLength payload && payloadAbsent payloadLength payload
  | .fetchRequest => true
  | .pendingCount => true
  | .readRequest => true
  | .reserved9 => true
  | .reservedA => true
  | .reservedB => true
  | .reservedC => true
  | .reservedD => true
  | .reservedE => true
  | .reservedF => true

end Sys2Proof
end

