-- ==== Sys2Proof/Decode.lean ====
section
/-! DEFINITION. Decoding and encoding of commands (spec/30_encoding.md R61 to R64, R66 to R68). A command is a 40-bit
word and, for WRITE_REQUEST, the payload bytes an agent presents with it. -/

namespace Sys2Proof

/-- Why a transaction on the port is no command. -/
inductive DecodeError where
  /-- a WRITE_REQUEST word with `payload_length ≤ 256`, presented with fewer payload bytes than that (R61, R68);
  the spec describes no such transaction -/
  | payloadMissing
deriving DecidableEq, Repr

/-- `op = CW[3:0]` (R61, R62). -/
def opField (w : CommandWord) : BitVec 4 := w.extractLsb' 0 4

/-- `src_id = CW[10:4]` (R63). -/
def srcIdField (w : CommandWord) : BitVec 7 := w.extractLsb' 4 7

/-- `ack_required = CW[11]` (R63). -/
def ackRequiredField (w : CommandWord) : Bool := w.getLsbD 11

/-- `type_code = CW[19:12]` (R63). -/
def typeCodeField (w : CommandWord) : Byte := w.extractLsb' 12 8

/-- `dir = CW[20]`: 0 is TargetToHost, 1 is HostToTarget (R61, R63). -/
def dirField (w : CommandWord) : Direction := if w.getLsbD 20 then .hostToTarget else .targetToHost

/-- `payload_length = CW[39:24]` (R63). -/
def payloadLengthField (w : CommandWord) : BitVec 16 := w.extractLsb' 24 16

/-- `now_ms = CW[39:8]` (R63). -/
def nowMsField (w : CommandWord) : BitVec 32 := w.extractLsb' 8 32

/-- Format W: the fields of the word and the first `payload_length` bytes, or no byte at all when
`payload_length > 256` (R61, R63, R68). -/
def decodeWrite (w : CommandWord) (bytes : List Byte) : Except DecodeError Instr :=
  let n := payloadLengthField w
  let command := Instr.writeRequest (srcIdField w) (ackRequiredField w) (typeCodeField w) (dirField w) n
  if Config.maxPayloadSize < n.toNat then .ok (command [])
  else if bytes.length < n.toNat then .error .payloadMissing
  else .ok (command (bytes.take n.toNat))

/-- The decoder of the command port: it looks at `CW[3:0]` only to choose the operation (R62), and ignores the
reserved bits (R64) and any byte that is not part of the command (R68). -/
def decode (w : CommandWord) (bytes : List Byte) : Except DecodeError Instr :=
  match (opField w).toNat with
  | 0 => .ok .init
  | 1 => .ok (.run (nowMsField w))
  | 2 => .ok (.tickTimers (nowMsField w))
  | 3 => .ok .notifyAck
  | 4 => .ok .notifyNack
  | 5 => decodeWrite w bytes
  | 6 => .ok .fetchRequest
  | 7 => .ok .pendingCount
  | 8 => .ok .readRequest
  | 9 => .ok .reserved9
  | 10 => .ok .reservedA
  | 11 => .ok .reservedB
  | 12 => .ok .reservedC
  | 13 => .ok .reservedD
  | 14 => .ok .reservedE
  | _ => .ok .reservedF

/-- The bit `dir` of format W (R61). -/
def dirBit : Direction → BitVec 1
  | .targetToHost => 0
  | .hostToTarget => 1

/-- Format N: `op` and 36 reserved bits, written zero (R61, R64). -/
def formatN (op : BitVec 4) : CommandWord := 0#36 ++ op

/-- Format T: `now_ms`, four reserved bits written zero, `op` (R61, R64). -/
def formatT (nowMs : BitVec 32) (op : BitVec 4) : CommandWord := nowMs ++ 0#4 ++ op

/-- Format W, its three reserved bits written zero (R61, R64). -/
def formatW (srcId : BitVec 7) (ackRequired : Bool) (typeCode : Byte) (dir : Direction) (payloadLength : BitVec 16)
    (op : BitVec 4) : CommandWord :=
  payloadLength ++ 0#3 ++ dirBit dir ++ typeCode ++ BitVec.ofBool ackRequired ++ srcId ++ op

/-- The command word of an operation (R61, R62). -/
def encodeWord : Instr → CommandWord
  | .init => formatN 0x0
  | .run nowMs => formatT nowMs 0x1
  | .tickTimers nowMs => formatT nowMs 0x2
  | .notifyAck => formatN 0x3
  | .notifyNack => formatN 0x4
  | .writeRequest srcId ackRequired typeCode dir payloadLength _ =>
      formatW srcId ackRequired typeCode dir payloadLength 0x5
  | .fetchRequest => formatN 0x6
  | .pendingCount => formatN 0x7
  | .readRequest => formatN 0x8
  | .reserved9 => formatN 0x9
  | .reservedA => formatN 0xA
  | .reservedB => formatN 0xB
  | .reservedC => formatN 0xC
  | .reservedD => formatN 0xD
  | .reservedE => formatN 0xE
  | .reservedF => formatN 0xF

/-- The bytes that follow the word: only WRITE_REQUEST has any (R68). -/
def encodePayload : Instr → List Byte
  | .writeRequest _ _ _ _ _ payload => payload
  | .init | .run _ | .tickTimers _ | .notifyAck | .notifyNack | .fetchRequest | .pendingCount | .readRequest
  | .reserved9 | .reservedA | .reservedB | .reservedC | .reservedD | .reservedE | .reservedF => []

/-- The command of a well-formed operation: its word and its payload bytes (R61, R68). -/
def encode (i : Instr) : CommandWord × List Byte := (encodeWord i, encodePayload i)

/-- The bits of a command word that the block looks at, by operation code: all but the reserved ones, W [23:21],
T [7:4], N [39:4] (R61, R64). -/
def significantBits (op : BitVec 4) : CommandWord :=
  if op = 0x5 then 0xFFFF1FFFFF#40 else if op = 0x1 ∨ op = 0x2 then 0xFFFFFFFF0F#40 else 0x000000000F#40

/-- The 40-bit word whose bits are the low bits of `w`, every bit from `nbits` up being zero. -/
def tableWord (nbits w : Nat) : CommandWord := BitVec.ofNat 40 (w % 2 ^ nbits)

/-- The bytes after the word: the bits from 40 up, eight at a time, up to the longest payload. -/
def tablePayload (nbits w : Nat) : List Byte :=
  (List.range Config.maxPayloadSize).map fun k => BitVec.ofNat 8 ((w % 2 ^ nbits) >>> (40 + 8 * k))

/-- The instruction the decoder reads from an instruction whose bits are `w`, numbered as spec/opcode_table.json
numbers them; bits from `nbits` up are zero. -/
def decodeTableWord (nbits w : Nat) : Option Instr :=
  match decode (tableWord nbits w) (tablePayload nbits w) with
  | .ok i => some i
  | .error _ => none

end Sys2Proof
end

