-- ==== Sys2Proof/Machine/State.lean ====
section
/-! DEFINITION. The state of the block, field by field as spec/10_state.md R10 lists it, and beside it the one field of the
model's own: what the environment will present to the block (notes/assumptions/1). What R25 says a model must not store
(the transport's answer, the response of an operation, the frame, the operands) is in no field. -/

namespace Sys2Proof.Machine

/-- The ring buffer as (index, byte) pairs, indices strictly rising and below 1024; an unlisted index has never been
written and has no value (R11, R26; notes/assumptions/4). -/
abbrev Ring := List Host.Cell

/-- `fsm_state` (R17). -/
inductive FsmState where
  /-- `PollPending`, encoded 0: the initial state -/
  | pollPending
  /-- `TransmitPacket`, encoded 1 -/
  | transmitPacket
deriving DecidableEq, Repr

/-- The transport's answer to a send (R83, R146). -/
inductive SendAnswer where
  /-- the transport has taken the whole frame -/
  | accepted
  /-- the transport has taken no byte -/
  | busy
deriving DecidableEq, Repr

/-- What the environment can present to the block: one transaction on the command port (R60) or the reset input (R190).
`answer` is not part of the command: it is what the transport answers if the operation makes a send (R81 `send=`, R146). -/
inductive Input where
  /-- the reset input is asserted -/
  | rst
  /-- an agent presents a command word and payload bytes -/
  | command (word : CommandWord) (payload : List Byte) (answer : SendAnswer)
deriving DecidableEq, Repr

/-- What an operation returns: the response word and, for FETCH_REQUEST, payload bytes (R60, R65). -/
structure Response where
  /-- `RW[47:0]` -/
  word : ResponseWord
  /-- the bytes that follow the word -/
  payload : List Byte
deriving DecidableEq, Repr

/-- One send transaction: the frame offered and the transport's answer (R83, R146). -/
structure Send where
  /-- the whole frame -/
  frame : List Byte
  /-- the answer of the transport -/
  answer : SendAnswer
deriving DecidableEq, Repr

/-- What an operation puts out: its response, and the send it makes, if it makes one (R25, R65, R127, R146). An output is a
value of that operation alone and is stored nowhere (notes/assumptions/3). -/
structure Output where
  /-- the response -/
  response : Response
  /-- the send, at most one (R127) -/
  send : Option Send
deriving DecidableEq, Repr

/-- A request as it is read from the ring (R72, R92): CP's TxRequest, its direction as the wire byte. -/
structure TxRequest where
  /-- `source` -/
  source : BitVec 7
  /-- `ack_required` -/
  ackRequired : Bool
  /-- `header.type_code` -/
  typeCode : Byte
  /-- `header.direction`, the wire byte -/
  dircode : Byte
  /-- `header.payload_length` -/
  payloadLength : BitVec 16
  /-- `payload` -/
  payload : List Byte
deriving DecidableEq, Repr

/-- The block: its complete architectural state, nothing else of which persists from one operation to the next (R10). -/
@[ext]
structure Block where
  /-- `buf[0..1023]` (R11) -/
  buf : Ring
  /-- `rd`, the read cursor (R12) -/
  rd : BitVec 10
  /-- `wr`, the write cursor (R13) -/
  wr : BitVec 10
  /-- `used`, ring bytes occupied (R14) -/
  used : BitVec 11
  /-- `pending_count`, whole requests stored (R15) -/
  pendingCount : BitVec 8
  /-- `fsm_state` (R17) -/
  fsmState : FsmState
  /-- `retry_count` (R18) -/
  retryCount : BitVec 2
  /-- `cur_src` (R19) -/
  curSrc : BitVec 7
  /-- `cur_ack` (R19) -/
  curAck : Bool
  /-- `cur_type` (R19) -/
  curType : Byte
  /-- `cur_dircode` (R19) -/
  curDircode : Byte
  /-- `cur_len` (R19) -/
  curLen : BitVec 16
  /-- `cur_payload[0..255]` (R19) -/
  curPayload : List Byte
  /-- `ev_ack` (R20) -/
  evAck : Bool
  /-- `ev_nack` (R20) -/
  evNack : Bool
  /-- `ev_timeout` (R20) -/
  evTimeout : Bool
  /-- `timer_active` (R22) -/
  timerActive : Bool
  /-- `timer_start` (R22) -/
  timerStart : BitVec 32
  /-- `sts_send_busy` (R23) -/
  stsSendBusy : Bool
  /-- `initialised` (R24) -/
  initialised : Bool
deriving DecidableEq, Repr

/-- The state of the machine: the block, and the environment's side of the port. -/
@[ext]
structure State extends Block where
  /-- MODEL: what the environment will present to the block, first input first (notes/assumptions/1) -/
  inputs : List Input
deriving DecidableEq, Repr

/-- Why the machine stops with a fault. -/
inductive Fault where
  /-- Raised by FETCH_REQUEST and RUN when `decode_record` reads a ring byte that no write has given a value (R26: the
  byte is unspecified and reading it is a fault of the model's user). Safe: no run from INIT gets there (R11, R16). -/
  | ringByteUnwritten
deriving DecidableEq, Repr

/-- Why the machine refuses. -/
inductive Refusal where
  /-- Raised by `exec` for an instruction without a meaning; no arm does. Safe. -/
  | notModelled (mnemonic : String)
  /-- Raised by every operation but INIT while `initialised = 0`: the spec gives it no meaning and asks for a refusal
  (R24, R192, U1 of spec/93_implementation_defined.md). Safe. -/
  | notInitialised
  /-- Raised by `step` for a WRITE_REQUEST word presented with fewer payload bytes than its `payload_length`: no command
  of R61 and R68. Safe. -/
  | payloadMissing
deriving DecidableEq, Repr

/-- The machine right after `rst` or INIT (R26, R190, R191). `buf` holds no value (notes/assumptions/4); the registers
that reset leaves unspecified hold a value of the model's choice (notes/assumptions/5); nothing is presented. -/
def State.reset : State where
  buf := []
  rd := 0
  wr := 0
  used := 0
  pendingCount := 0
  fsmState := .pollPending
  retryCount := 0
  curSrc := 0
  curAck := false
  curType := 0
  curDircode := Config.dirT2H
  curLen := 0
  curPayload := List.replicate Config.maxPayloadSize 0
  evAck := false
  evNack := false
  evTimeout := false
  timerActive := false
  timerStart := 0
  stsSendBusy := false
  initialised := true
  inputs := []

end Sys2Proof.Machine
end

