-- ==== Sys2Proof/Machine/Operands.lean ====
section
/-! DEFINITION. Operand and result forms: direction codes, status codes, response words
(spec/30_encoding.md R63, R65, R71, R75; spec/10_state.md R17). -/

namespace Sys2Proof.Machine

/-- `dircode(dir)` (R63, R76). -/
def dircode : Direction → Byte
  | .targetToHost => Config.dirT2H
  | .hostToTarget => Config.dirH2T

/-- `rec_size(N) = SRC_SIZE + HDR_SIZE + N` (R71). -/
def recSize (n : Nat) : Nat := Config.srcSize + Config.hdrSize + n

/-- The bit encoding of `fsm_state` (R17). -/
def fsmStateBit : FsmState → BitVec 1
  | .pollPending => 0
  | .transmitPacket => 1

/-- The status of an operation (R65). -/
inductive Status where
  /-- done -/
  | ok
  /-- not enough free space -/
  | queueFull
  /-- `payload_length > 256` -/
  | payloadTooLarge
  /-- `pending_count = 0` -/
  | empty
  /-- a reserved code, or a code not issuable on the port -/
  | illegalOp
deriving DecidableEq, Repr

/-- `RW[2:0]` (R65). -/
def statusCode : Status → BitVec 3
  | .ok => 0
  | .queueFull => 1
  | .payloadTooLarge => 2
  | .empty => 3
  | .illegalOp => 4

/-- Response format RS: `status` [2:0] (R65). -/
def wordRS (status : Status) : ResponseWord := 0#45 ++ statusCode status

/-- Response format RC: `status` [2:0] = OK, `count` [15:8] (R65). -/
def wordRC (count : BitVec 8) : ResponseWord := 0#32 ++ count ++ 0#5 ++ statusCode .ok

/-- Response format RQ when OK: `status` [2:0], `src_id` [10:4], `ack_required` [11], `type_code` [19:12],
`dircode` [27:20], `payload_length` [43:28] (R65). -/
def wordRQ (q : TxRequest) : ResponseWord :=
  0#4 ++ q.payloadLength ++ q.dircode ++ q.typeCode ++ BitVec.ofBool q.ackRequired ++ q.source ++ 0#1 ++ statusCode .ok

/-- The field `tx` of RUN's response (R65, R128). -/
inductive TxField where
  /-- no send in this RUN -/
  | none
  /-- one send, accepted -/
  | accepted
  /-- one send, answered Busy -/
  | busy
deriving DecidableEq, Repr

/-- `RW[6:5]` of format RR (R65). -/
def txCode : TxField → BitVec 2
  | .none => 0
  | .accepted => 1
  | .busy => 2

/-- The value of `tx` for a transport answer (R115). -/
def txOfAnswer : SendAnswer → TxField
  | .accepted => .accepted
  | .busy => .busy

/-- The response record of RUN (R112, R128). -/
structure RunResponse where
  /-- this RUN removed a request from the queue -/
  dequeued : Bool
  /-- whether a send was made, and its answer -/
  tx : TxField
  /-- back to `PollPending` by reaction 1 -/
  done : Bool
  /-- back to `PollPending` by retry exhaustion -/
  dropped : Bool
deriving DecidableEq, Repr

/-- `resp` as RUN starts with it (R112). -/
def RunResponse.nothing : RunResponse := ⟨false, .none, false, false⟩

/-- Response format RR: `status` [2:0] = OK, `dequeued` [4], `tx` [6:5], `done` [7], `dropped` [8] (R65, R128). -/
def wordRR (r : RunResponse) : ResponseWord :=
  0#39 ++ BitVec.ofBool r.dropped ++ BitVec.ofBool r.done ++ txCode r.tx ++ BitVec.ofBool r.dequeued ++ 0#1
    ++ statusCode .ok

/-- The category a `type_code` falls in (R75). No operation of the block looks at it. -/
inductive TypeCategory where
  /-- 0x00 .. 0x55 -/
  | command
  /-- 0x56 .. 0xAB -/
  | event
  /-- 0xAC .. 0xFF -/
  | response
deriving DecidableEq, Repr

/-- The category of a `type_code` by its numeric range (R75). -/
def typeCategory (t : Byte) : TypeCategory :=
  if t.toNat ≤ 0x55 then .command else if t.toNat ≤ 0xAB then .event else .response

end Sys2Proof.Machine
end

