-- ==== Sys2Proof/Machine/Codec.lean ====
section
/-! DEFINITION. The Protocol Codec (spec/42_codec.md R141 to R143) and the reference `deserialize` the spec gives for
stating laws (R150). Frame functions take the checksum as an argument, since the spec keeps it a replaceable parameter
(spec/00_scope.md R2); the block uses `crc32`. -/

namespace Sys2Proof.Machine

/-- `le16(v)` (R3, R40). -/
def le16 (v : BitVec 16) : List Byte := [v.extractLsb' 0 8, v.extractLsb' 8 8]

/-- `le32(v)` (R3, R40). -/
def le32 (v : BitVec 32) : List Byte :=
  [v.extractLsb' 0 8, v.extractLsb' 8 8, v.extractLsb' 16 8, v.extractLsb' 24 8]

/-- One of the eight shifts CRC32 makes for a byte (R143). -/
def crcShift (c : BitVec 32) : BitVec 32 :=
  if c.getLsbD 0 then (c >>> (1 : Nat)) ^^^ 0xEDB88320#32 else c >>> (1 : Nat)

/-- `n` shifts in a row. -/
def crcShifts : Nat → BitVec 32 → BitVec 32
  | 0, c => c
  | n + 1, c => crcShifts n (crcShift c)

/-- The CRC register after one more byte (R143). -/
def crcByte (c : BitVec 32) (b : Byte) : BitVec 32 := crcShifts 8 (c ^^^ b.setWidth 32)

/-- The CRC register after a byte sequence, first byte first (R143). -/
def crcBytes : BitVec 32 → List Byte → BitVec 32
  | c, [] => c
  | c, b :: bs => crcBytes (crcByte c b) bs

/-- `CRC32`: CRC-32/ISO-HDLC as R143 defines it (D14; notes/assumptions/8). -/
def crc32 (bytes : List Byte) : BitVec 32 := crcBytes 0xFFFFFFFF#32 bytes ^^^ 0xFFFFFFFF#32

/-- The wire header `H` (R142). -/
def headerBytes (typeCode dircode : Byte) (n : BitVec 16) : List Byte := [typeCode, dircode] ++ le16 n

/-- `serialize` with the checksum function given (R141, R145). -/
def serializeWith (crc : List Byte → BitVec 32) (typeCode dircode : Byte) (n : BitVec 16) (payload : List Byte) :
    List Byte :=
  let body := headerBytes typeCode dircode n ++ payload
  le16 Config.preamble ++ body ++ le32 (crc body) ++ le16 Config.postamble

/-- `serialize` (R141). -/
def serialize (typeCode dircode : Byte) (n : BitVec 16) (payload : List Byte) : List Byte :=
  serializeWith crc32 typeCode dircode n payload

/-- `frame_len(N)` (R79). -/
def frameLen (n : Nat) : Nat := Config.frameOverhead + n

/-- Why `deserialize` rejects a byte sequence (R150). -/
inductive RejectReason where
  | tooShort
  | badPreamble
  | badLength
  | badFrameLength
  | badPostamble
  | crcMismatch
deriving DecidableEq, Repr

/-- What `deserialize` accepts (R150). -/
structure Packet where
  typeCode : Byte
  dircode : Byte
  payloadLength : BitVec 16
  payload : List Byte
deriving DecidableEq, Repr

/-- The two bytes of a sequence at an offset, as a little-endian number (R40); a byte beyond the end reads as 0 and
`deserialize` never asks for one. -/
def le16At (f : List Byte) (k : Nat) : BitVec 16 := f.getD (k + 1) 0 ++ f.getD k 0

/-- The four bytes of a sequence at an offset, as a little-endian number (R40). -/
def le32At (f : List Byte) (k : Nat) : BitVec 32 :=
  f.getD (k + 3) 0 ++ f.getD (k + 2) 0 ++ f.getD (k + 1) 0 ++ f.getD k 0

/-- The reference `deserialize` with the checksum function given (R150). It is no part of the block: nothing in
Machine/Fsm.lean or Machine/Queue.lean uses it. -/
def deserializeWith (crc : List Byte → BitVec 32) (f : List Byte) : Except RejectReason Packet :=
  let n := le16At f 4
  let k := n.toNat
  if f.length < Config.frameOverhead then .error .tooShort
  else if le16At f 0 ≠ Config.preamble then .error .badPreamble
  else if Config.maxPayloadSize < k then .error .badLength
  else if f.length ≠ frameLen k then .error .badFrameLength
  else if le16At f (10 + k) ≠ Config.postamble then .error .badPostamble
  else if le32At f (6 + k) ≠ crc ((f.drop 2).take (4 + k)) then .error .crcMismatch
  else .ok ⟨f.getD 2 0, f.getD 3 0, n, (f.drop 6).take k⟩

/-- The reference `deserialize` (R150). -/
def deserialize (f : List Byte) : Except RejectReason Packet := deserializeWith crc32 f

/-- What the receive-side collaborator must check of a received frame before it may raise an event (R149): the checks of
`deserialize`, the direction host to target, and a type code in the response range. Which codes of that range mean ACK
or NACK is not in the spec. A duty of the environment: the block checks none of it (R166). -/
def mayNotify (f : List Byte) : Bool :=
  match deserialize f with
  | .ok p => decide (p.dircode = Config.dirH2T) && decide (typeCategory p.typeCode = .response)
  | .error _ => false

end Sys2Proof.Machine
end

