-- ==== Sys2Proof/Machine/Flags.lean ====
section
/-! DEFINITION. The event flags, the AckTimeout timer and the sticky status flag
(spec/10_state.md R20, R22, R23; spec/41_txfsm.md R113, R115, R120 to R122). -/

namespace Sys2Proof.Machine

/-- Raise AckReceived (R121). -/
def raiseAck (b : Block) : Block := { b with evAck := true }

/-- Raise NackReceived (R122). -/
def raiseNack (b : Block) : Block := { b with evNack := true }

/-- Clear all pending events (R113). -/
def clearEvents (b : Block) : Block := { b with evAck := false, evNack := false, evTimeout := false }

/-- Stop the timer (R113). -/
def stopTimer (b : Block) : Block := { b with timerActive := false }

/-- Start the timer at `now_ms` (R115). -/
def startTimer (nowMs : BitVec 32) (b : Block) : Block := { b with timerStart := nowMs, timerActive := true }

/-- `timer_active = 1` and `(now_ms - timer_start) mod 2^32 ≥ 50` (R120). -/
def timerExpired (nowMs : BitVec 32) (b : Block) : Bool :=
  b.timerActive && decide (Config.ackTimeoutMs ≤ (nowMs - b.timerStart).toNat)

/-- AckTimeout fires, one-shot (R120). -/
def fireTimeout (b : Block) : Block := { b with evTimeout := true, timerActive := false }

/-- Examine the timer: what TICK_TIMERS does (R120). -/
def examineTimer (nowMs : BitVec 32) (b : Block) : Block := if timerExpired nowMs b then fireTimeout b else b

/-- `sts_send_busy` is set by a Busy answer and otherwise kept (R23, R115). -/
def noteAnswer (a : SendAnswer) (b : Block) : Block :=
  { b with stsSendBusy := b.stsSendBusy || decide (a = .busy) }

end Sys2Proof.Machine
end

