-- ==== Sys2Proof/Machine/Ops.lean ====
section
/-! DEFINITION. The named operations every meaning is made of: ring memory (spec/20_memory.md R44 to R46), records
(spec/30_encoding.md R70 to R72), the queue procedures (spec/40_queue.md R91 to R93), answering with a response or a status
(spec/00_scope.md R4), and the FSM's transitions, the block's analogue of taking an exception and returning from it
(spec/41_txfsm.md R113 to R119, R123; spec/60_exceptions.md R168, R169). -/

namespace Sys2Proof.Machine

/-! ### The ring buffer -/

/-- The byte at a ring index, none where nothing has been written (R11, R26). -/
def Ring.read : Ring → Nat → Option Byte
  | [], _ => none
  | (k, b) :: rest, a => if k = a then some b else Ring.read rest a

/-- Store one byte, keeping the indices strictly rising (R45). -/
def Ring.write : Ring → Nat → Byte → Ring
  | [], a, v => [(a, v)]
  | (k, b) :: rest, a, v =>
      if a < k then (a, v) :: (k, b) :: rest
      else if a = k then (a, v) :: rest
      else (k, b) :: Ring.write rest a v

/-- The canonical form: indices strictly rising from `lo` up and below the capacity. -/
def Ring.wfFrom : Nat → Ring → Bool
  | _, [] => true
  | lo, (k, _) :: rest => decide (lo ≤ k) && decide (k < Config.ringCapacity) && Ring.wfFrom (k + 1) rest

/-- The canonical form of the ring's memory: strictly rising indices `0 .. 1023` (R11). An unlisted index has no value,
so no entry can equal what it reads as. -/
def Memory.wf (m : Ring) : Bool := Ring.wfFrom 0 m

/-- `RingRead(a, n)` (R44): the bytes at `a`, `a + 1`, ..., the index taken mod 1024 by the 10-bit addition (R46);
none if one of them has never been written. -/
def ringRead (m : Ring) : BitVec 10 → Nat → Option (List Byte)
  | _, 0 => some []
  | a, n + 1 =>
      match Ring.read m a.toNat, ringRead m (a + 1#10) n with
      | some b, some bs => some (b :: bs)
      | _, _ => none

/-- `RingWrite(a, v)` (R45). -/
def ringWrite (m : Ring) : BitVec 10 → List Byte → Ring
  | _, [] => m
  | a, b :: bs => ringWrite (Ring.write m a.toNat b) (a + 1#10) bs

/-! ### Records -/

/-- A record as it lies in the ring (R70). -/
def recordBytes (q : TxRequest) : List Byte :=
  (BitVec.ofBool q.ackRequired ++ q.source) :: headerBytes q.typeCode q.dircode q.payloadLength ++ q.payload

/-- Decode the record at a ring index (R72). -/
def decodeRecord (m : Ring) (a : BitVec 10) : Option TxRequest :=
  match ringRead m a 5 with
  | some [h0, h1, h2, h3, h4] =>
      let n : BitVec 16 := h4 ++ h3
      match ringRead m (a + 5#10) n.toNat with
      | some payload => some ⟨h0.extractLsb' 0 7, h0.getLsbD 7, h1, h2, n, payload⟩
      | none => none
  | _ => none

/-! ### The queue procedures -/

/-- Free ring bytes (R14). -/
def freeSpace (b : Block) : Nat := Config.ringUsable - b.used.toNat

/-- `if pending_count == 0 ... else decode_record(rd)`: what READ_REQUEST and FETCH_REQUEST return, none for EMPTY
(R92, R93). -/
def peekRequest (b : Block) : Except Fault (Option TxRequest) :=
  if b.pendingCount = 0#8 then .ok none
  else match decodeRecord b.buf b.rd with
    | some q => .ok (some q)
    | none => .error .ringByteUnwritten

/-- Move the read cursor over a record and count it out (R92, R46). -/
def dropRecord (q : TxRequest) (b : Block) : Block :=
  let size := recSize q.payloadLength.toNat
  { b with
    rd := b.rd + BitVec.ofNat 10 size
    used := b.used - BitVec.ofNat 11 size
    pendingCount := b.pendingCount - 1#8 }

/-- The procedure READ_REQUEST (R92): the answer, none for EMPTY, and the block after it. -/
def readRequest (b : Block) : Except Fault (Option TxRequest × Block) :=
  match peekRequest b with
  | .error f => .error f
  | .ok none => .ok (none, b)
  | .ok (some q) => .ok (some q, dropRecord q b)

/-- Store a record at the write cursor and count it in (R91, R46). -/
def appendRecord (q : TxRequest) (b : Block) : Block :=
  let size := recSize q.payloadLength.toNat
  { b with
    buf := ringWrite b.buf b.wr (recordBytes q)
    wr := b.wr + BitVec.ofNat 10 size
    used := b.used + BitVec.ofNat 11 size
    pendingCount := b.pendingCount + 1#8 }

/-- The procedure WRITE_REQUEST (R91, R95): the length test, then the space test, then the append. -/
def writeRequest (q : TxRequest) (b : Block) : Status × Block :=
  if Config.maxPayloadSize < q.payloadLength.toNat then (.payloadTooLarge, b)
  else if freeSpace b < recSize q.payloadLength.toNat then (.queueFull, b)
  else (.ok, appendRecord q b)

/-! ### Performing an operation

An operation of the port is a function of the block, its operands and the transport's answer. What it puts out is part of
its result and of no state (R25). -/

/-- What an operation that completes gives: the block after it, and what it puts out. -/
structure Effect where
  /-- the block after the operation -/
  block : Block
  /-- the response, and the send if one was made -/
  output : Output
deriving DecidableEq, Repr

/-- How an operation ends. -/
abbrev Performed := Host.Outcome Effect Fault Refusal

/-- Return a response word and payload bytes to the agent, with no send made (R60, R65). -/
def respond (word : ResponseWord) (payload : List Byte) (b : Block) : Performed := .next ⟨b, ⟨⟨word, payload⟩, none⟩⟩

/-- Return a status in format RS (R65): the `raise` primitive of R4 for a status other than OK. -/
def respondStatus (status : Status) (b : Block) : Performed := respond (wordRS status) [] b

/-- An operation other than INIT has a meaning only after INIT or `rst` (R24, R192). -/
def whenInitialised (b : Block) (meaning : Performed) : Performed :=
  if b.initialised then meaning else .refused .notInitialised

/-- A command code that is reserved or not issuable on the port: nothing changes, ILLEGAL_OP (R66, R67). -/
def answerIllegalOp (b : Block) : Performed := whenInitialised b (respondStatus .illegalOp b)

/-- The state after an operation: only the block has changed, and nothing that the operation put out is kept (R10, R25). -/
def settle (s : State) (p : Performed) : Host.Outcome State Fault Refusal :=
  match p with
  | .next e => .next { toBlock := e.block, inputs := s.inputs }
  | .fault f => .fault f
  | .refused r => .refused r

/-- What an operation puts out, if it completes (R65, R146). -/
def outputIn (p : Performed) : Option Output :=
  match p with
  | .next e => some e.output
  | .fault _ => none
  | .refused _ => none

/-- The transport's answer to a send made in the transaction now presented: an input of that transaction, chosen by the
environment (R25, R81 `send=`, R146). Where no transaction is presented, a free value (notes/assumptions/2). -/
def presentedAnswer (s : State) : SendAnswer :=
  match s.inputs with
  | .command _ _ answer :: _ => answer
  | .rst :: _ | [] => if Config.busyWhenNotAsked then .busy else .accepted

/-! ### Reset -/

/-- What INIT and `rst` write (R111, R190): `buf`, `cur_*` and `timer_start` keep what they hold. -/
def initialise (b : Block) : Block :=
  { b with
    initialised := true
    rd := 0
    wr := 0
    used := 0
    pendingCount := 0
    fsmState := .pollPending
    retryCount := 0
    evAck := false
    evNack := false
    evTimeout := false
    timerActive := false
    stsSendBusy := false }

/-! ### Transitions of the FSM -/

/-- How a request leaves the FSM (R113). -/
inductive Leaving where
  /-- completed -/
  | done
  /-- abandoned after retry exhaustion -/
  | dropped
deriving DecidableEq, Repr

/-- A RUN under way: the block so far, its response record `resp` so far, and the send it has made, if it has made one
(R112, R127). -/
structure Tick where
  /-- the block -/
  block : Block
  /-- `resp` -/
  resp : RunResponse
  /-- the send -/
  send : Option Send
deriving DecidableEq, Repr

/-- `emit outcome` (R113, R128). -/
def emitLeaving : Leaving → RunResponse → RunResponse
  | .done, r => { r with done := true }
  | .dropped, r => { r with dropped := true }

/-- `go_poll(outcome)` (R113). -/
def goPoll (outcome : Leaving) (x : Tick) : Tick :=
  { x with
    block := { clearEvents (stopTimer x.block) with fsmState := .pollPending }
    resp := emitLeaving outcome x.resp }

/-- The frame of the request in the `cur_*` registers (R115, R141). -/
def currentFrame (b : Block) : List Byte :=
  serialize b.curType b.curDircode b.curLen (b.curPayload.take b.curLen.toNat)

/-- `Transport.send(F)`: one transaction, answered by the environment (R83, R146); `resp.tx` tells the answer and a Busy
answer is noted (R115). -/
def sendFrame (answer : SendAnswer) (x : Tick) : Tick where
  block := noteAnswer answer x.block
  resp := { x.resp with tx := txOfAnswer answer }
  send := some ⟨currentFrame x.block, answer⟩

/-- The entry action of `TransmitPacket` (R115): send, then start the timer, or complete at once (R116). -/
def entryTransmit (nowMs : BitVec 32) (answer : SendAnswer) (x : Tick) : Tick :=
  let sent := sendFrame answer x
  if x.block.curAck then { sent with block := startTimer nowMs sent.block } else goPoll .done sent

/-- `go_transmit(now_ms)` (R113): the events are cleared before the entry action runs. -/
def goTransmit (nowMs : BitVec 32) (answer : SendAnswer) (x : Tick) : Tick :=
  entryTransmit nowMs answer
    { x with block := { clearEvents (stopTimer x.block) with fsmState := .transmitPacket } }

/-- `retry(now_ms)` (R119). -/
def retry (nowMs : BitVec 32) (answer : SendAnswer) (x : Tick) : Tick :=
  goTransmit nowMs answer { x with block := { x.block with retryCount := x.block.retryCount + 1#2 } }

/-- `on_timeout(now_ms)` (R118, R123). -/
def onTimeout (nowMs : BitVec 32) (answer : SendAnswer) (x : Tick) : Tick :=
  if x.block.retryCount.toNat < Config.maxRetries then retry nowMs answer x else goPoll .dropped x

/-- The load of `current_request` and the reset of `retry_count` (R114); payload bytes from `cur_len` up keep what they
hold (R19). -/
def loadCurrent (q : TxRequest) (b : Block) : Block :=
  { b with
    curSrc := q.source
    curAck := q.ackRequired
    curType := q.typeCode
    curDircode := q.dircode
    curLen := q.payloadLength
    curPayload := q.payload ++ b.curPayload.drop q.payload.length
    retryCount := 0 }

/-- `on_pending_packet(now_ms)` (R114). -/
def onPendingPacket (nowMs : BitVec 32) (answer : SendAnswer) (x : Tick) : Except Fault Tick :=
  match readRequest x.block with
  | .error f => .error f
  | .ok (none, b) => .ok { x with block := b }
  | .ok (some q, b) =>
      .ok (goTransmit nowMs answer { x with block := loadCurrent q b, resp := { x.resp with dequeued := true } })

/-- A RUN as it starts: nothing to tell yet, no send made (R112). -/
def Tick.start (b : Block) : Tick := ⟨b, .nothing, none⟩

/-- One control tick of the FSM (R112, R124): the reactions in priority order, first match wins (R167). -/
def runTick (nowMs : BitVec 32) (answer : SendAnswer) (b : Block) : Except Fault Tick :=
  match b.fsmState with
  | .pollPending =>
      if b.pendingCount = 0#8 then .ok (.start b) else onPendingPacket nowMs answer (.start b)
  | .transmitPacket =>
      if b.evAck then .ok (goPoll .done (.start b))
      else if b.evNack then .ok (goTransmit nowMs answer (.start b))
      else if b.evTimeout then .ok (onTimeout nowMs answer (.start b))
      else .ok (.start b)

end Sys2Proof.Machine
end

