-- ==== Sys2Proof/Machine/Fsm.lean ====
section
/-! DEFINITION. The Transmit FSM family: INIT, RUN, TICK_TIMERS, NOTIFY_ACK, NOTIFY_NACK
(spec/41_txfsm.md R111, R112, R120 to R122). Each operation is given whole, with its output, by its `perform` function; its
`exec` function is the state it leaves. -/

namespace Sys2Proof.Machine

/-- INIT (R111): the one operation with a meaning before the block is initialised (R192). -/
def performInit (b : Block) : Performed := respondStatus .ok (initialise b)

/-- The state INIT leaves. -/
def execInit (s : State) : Host.Outcome State Fault Refusal := settle s (performInit s.toBlock)

/-- RUN (R112): the only operation that makes a send, so the only one the transport answers (R127, R146). -/
def performRun (nowMs : BitVec 32) (answer : SendAnswer) (b : Block) : Performed :=
  whenInitialised b <|
    match runTick nowMs answer b with
    | .error f => .fault f
    | .ok x => .next ⟨x.block, ⟨⟨wordRR x.resp, []⟩, x.send⟩⟩

/-- The state RUN leaves. -/
def execRun (nowMs : BitVec 32) (s : State) : Host.Outcome State Fault Refusal :=
  settle s (performRun nowMs (presentedAnswer s) s.toBlock)

/-- TICK_TIMERS (R120). -/
def performTickTimers (nowMs : BitVec 32) (b : Block) : Performed :=
  whenInitialised b (respondStatus .ok (examineTimer nowMs b))

/-- The state TICK_TIMERS leaves. -/
def execTickTimers (nowMs : BitVec 32) (s : State) : Host.Outcome State Fault Refusal :=
  settle s (performTickTimers nowMs s.toBlock)

/-- NOTIFY_ACK (R121). -/
def performNotifyAck (b : Block) : Performed := whenInitialised b (respondStatus .ok (raiseAck b))

/-- The state NOTIFY_ACK leaves. -/
def execNotifyAck (s : State) : Host.Outcome State Fault Refusal := settle s (performNotifyAck s.toBlock)

/-- NOTIFY_NACK (R122). -/
def performNotifyNack (b : Block) : Performed := whenInitialised b (respondStatus .ok (raiseNack b))

/-- The state NOTIFY_NACK leaves. -/
def execNotifyNack (s : State) : Host.Outcome State Fault Refusal := settle s (performNotifyNack s.toBlock)

end Sys2Proof.Machine
end

