-- ==== Sys2Proof/Machine/Queue.lean ====
section
/-! DEFINITION. The Request Queue family on the command port: WRITE_REQUEST, FETCH_REQUEST, PENDING_COUNT and the refused
READ_REQUEST (spec/40_queue.md R91, R93, R94; spec/30_encoding.md R67). Each operation is given whole, with its output, by
its `perform` function; its `exec` function is the state it leaves. -/

namespace Sys2Proof.Machine

/-- The request a WRITE_REQUEST hands over: the direction becomes its wire byte (R63, R70). -/
def requestOf (srcId : BitVec 7) (ackRequired : Bool) (typeCode : Byte) (dir : Direction) (payloadLength : BitVec 16)
    (payload : List Byte) : TxRequest :=
  ⟨srcId, ackRequired, typeCode, dircode dir, payloadLength, payload⟩

/-- WRITE_REQUEST (R91). -/
def performWriteRequest (srcId : BitVec 7) (ackRequired : Bool) (typeCode : Byte) (dir : Direction)
    (payloadLength : BitVec 16) (payload : List Byte) (b : Block) : Performed :=
  whenInitialised b <|
    let result := writeRequest (requestOf srcId ackRequired typeCode dir payloadLength payload) b
    respondStatus result.1 result.2

/-- The state WRITE_REQUEST leaves. -/
def execWriteRequest (srcId : BitVec 7) (ackRequired : Bool) (typeCode : Byte) (dir : Direction)
    (payloadLength : BitVec 16) (payload : List Byte) (s : State) : Host.Outcome State Fault Refusal :=
  settle s (performWriteRequest srcId ackRequired typeCode dir payloadLength payload s.toBlock)

/-- FETCH_REQUEST (R93). -/
def performFetchRequest (b : Block) : Performed :=
  whenInitialised b <|
    match peekRequest b with
    | .error f => .fault f
    | .ok none => respondStatus .empty b
    | .ok (some q) => respond (wordRQ q) q.payload b

/-- The state FETCH_REQUEST leaves. -/
def execFetchRequest (s : State) : Host.Outcome State Fault Refusal := settle s (performFetchRequest s.toBlock)

/-- PENDING_COUNT (R94). -/
def performPendingCount (b : Block) : Performed := whenInitialised b (respond (wordRC b.pendingCount) [] b)

/-- The state PENDING_COUNT leaves. -/
def execPendingCount (s : State) : Host.Outcome State Fault Refusal := settle s (performPendingCount s.toBlock)

/-- READ_REQUEST presented on the command port (R67). Its procedure is `readRequest` of Machine/Ops.lean, which only RUN
calls (R50). -/
def performReadRequest (b : Block) : Performed := answerIllegalOp b

/-- The state READ_REQUEST leaves when it is presented on the port. -/
def execReadRequest (s : State) : Host.Outcome State Fault Refusal := settle s (performReadRequest s.toBlock)

end Sys2Proof.Machine
end

