-- ==== Sys2Proof/Machine/Reserved.lean ====
section
/-! DEFINITION. The reserved operation codes 0x9 to 0xF (spec/30_encoding.md R66): for each its operation with its output,
and the state it leaves. -/

namespace Sys2Proof.Machine

/-- Reserved code 0x9 (R66). -/
def performReserved9 (b : Block) : Performed := answerIllegalOp b

/-- The state reserved code 0x9 leaves. -/
def execReserved9 (s : State) : Host.Outcome State Fault Refusal := settle s (performReserved9 s.toBlock)

/-- Reserved code 0xA (R66). -/
def performReservedA (b : Block) : Performed := answerIllegalOp b

/-- The state reserved code 0xA leaves. -/
def execReservedA (s : State) : Host.Outcome State Fault Refusal := settle s (performReservedA s.toBlock)

/-- Reserved code 0xB (R66). -/
def performReservedB (b : Block) : Performed := answerIllegalOp b

/-- The state reserved code 0xB leaves. -/
def execReservedB (s : State) : Host.Outcome State Fault Refusal := settle s (performReservedB s.toBlock)

/-- Reserved code 0xC (R66). -/
def performReservedC (b : Block) : Performed := answerIllegalOp b

/-- The state reserved code 0xC leaves. -/
def execReservedC (s : State) : Host.Outcome State Fault Refusal := settle s (performReservedC s.toBlock)

/-- Reserved code 0xD (R66). -/
def performReservedD (b : Block) : Performed := answerIllegalOp b

/-- The state reserved code 0xD leaves. -/
def execReservedD (s : State) : Host.Outcome State Fault Refusal := settle s (performReservedD s.toBlock)

/-- Reserved code 0xE (R66). -/
def performReservedE (b : Block) : Performed := answerIllegalOp b

/-- The state reserved code 0xE leaves. -/
def execReservedE (s : State) : Host.Outcome State Fault Refusal := settle s (performReservedE s.toBlock)

/-- Reserved code 0xF (R66). -/
def performReservedF (b : Block) : Performed := answerIllegalOp b

/-- The state reserved code 0xF leaves. -/
def execReservedF (s : State) : Host.Outcome State Fault Refusal := settle s (performReservedF s.toBlock)

end Sys2Proof.Machine
end

