-- ==== Sys2Proof/Machine/Dispatch.lean ====
section
/-! DEFINITION. The meaning of every operation of the command port, one arm per row of spec/opcode_table.json. -/

namespace Sys2Proof.Machine

def exec (i : Instr) (s : State) : Host.Outcome State Fault Refusal :=
  match i with
  | .init => Sys2Proof.Machine.execInit s
  | .run nowMs => Sys2Proof.Machine.execRun nowMs s
  | .tickTimers nowMs => Sys2Proof.Machine.execTickTimers nowMs s
  | .notifyAck => Sys2Proof.Machine.execNotifyAck s
  | .notifyNack => Sys2Proof.Machine.execNotifyNack s
  | .writeRequest src ack typ dir len payload => Sys2Proof.Machine.execWriteRequest src ack typ dir len payload s
  | .fetchRequest => Sys2Proof.Machine.execFetchRequest s
  | .pendingCount => Sys2Proof.Machine.execPendingCount s
  | .readRequest => Sys2Proof.Machine.execReadRequest s
  | .reserved9 => Sys2Proof.Machine.execReserved9 s
  | .reservedA => Sys2Proof.Machine.execReservedA s
  | .reservedB => Sys2Proof.Machine.execReservedB s
  | .reservedC => Sys2Proof.Machine.execReservedC s
  | .reservedD => Sys2Proof.Machine.execReservedD s
  | .reservedE => Sys2Proof.Machine.execReservedE s
  | .reservedF => Sys2Proof.Machine.execReservedF s

end Sys2Proof.Machine
end

