-- ==== Sys2Proof/Machine/Port.lean ====
section
/-! DEFINITION. What the environment presents and sees: performing an operation of the port and what it puts out
(spec/30_encoding.md R60, R65), taking an input off (spec/70_reset_and_hazards.md R190), the read-only status view
(spec/10_state.md R28), the wire (spec/42_codec.md R146) and the pseudo-operations (spec/30_encoding.md R82). -/

namespace Sys2Proof.Machine

/-- An operation of the port, with the transport's answer to the send it may make. -/
def perform (i : Instr) (answer : SendAnswer) (b : Block) : Performed :=
  match i with
  | .init => performInit b
  | .run nowMs => performRun nowMs answer b
  | .tickTimers nowMs => performTickTimers nowMs b
  | .notifyAck => performNotifyAck b
  | .notifyNack => performNotifyNack b
  | .writeRequest src ack typ dir len payload => performWriteRequest src ack typ dir len payload b
  | .fetchRequest => performFetchRequest b
  | .pendingCount => performPendingCount b
  | .readRequest => performReadRequest b
  | .reserved9 => performReserved9 b
  | .reservedA => performReservedA b
  | .reservedB => performReservedB b
  | .reservedC => performReservedC b
  | .reservedD => performReservedD b
  | .reservedE => performReservedE b
  | .reservedF => performReservedF b

/-- What an operation presented in `s` puts out: its response, and its send if it makes one; none where it does not
complete. The state it leaves is `exec`'s (R25, R65, R146; notes/assumptions/3). -/
def outputOf (i : Instr) (s : State) : Option Output := outputIn (perform i (presentedAnswer s) s.toBlock)

/-- The state with the input at the head taken off: `rest` are the inputs behind it. -/
def takeInput (rest : List Input) (s : State) : State := { s with inputs := rest }

/-- The reset input: the effect of INIT (R190). -/
def takeReset (rest : List Input) (s : State) : State := { toBlock := initialise s.toBlock, inputs := rest }

/-- A change made to the next state only. -/
def mapNext (f : State → State) (o : Host.Outcome State Fault Refusal) : Host.Outcome State Fault Refusal :=
  match o with
  | .next s => .next (f s)
  | .fault x => .fault x
  | .refused x => .refused x

/-- The transaction that presents the bits of an instruction as spec/opcode_table.json numbers them. -/
def tableInput (nbits w : Nat) (answer : SendAnswer) : Input :=
  .command (tableWord nbits w) (tablePayload nbits w) answer

/-- The read-only outputs (R28). -/
structure StatusView where
  /-- `o_fsm_state` -/
  fsmState : BitVec 1
  /-- `o_retry_count` -/
  retryCount : BitVec 2
  /-- `o_pending_count` -/
  pendingCount : BitVec 8
  /-- `o_free_space` -/
  freeSpace : BitVec 11
  /-- `o_timer_active` -/
  timerActive : BitVec 1
  /-- `o_ev` -/
  ev : BitVec 3
  /-- `o_send_busy` -/
  sendBusy : BitVec 1
deriving DecidableEq, Repr

/-- The values of the status view (R28). -/
def statusView (b : Block) : StatusView where
  fsmState := fsmStateBit b.fsmState
  retryCount := b.retryCount
  pendingCount := b.pendingCount
  freeSpace := BitVec.ofNat 11 (freeSpace b)
  timerActive := BitVec.ofBool b.timerActive
  ev := BitVec.ofBool b.evTimeout ++ BitVec.ofBool b.evNack ++ BitVec.ofBool b.evAck
  sendBusy := BitVec.ofBool b.stsSendBusy

/-- The sends among what operations have put out, in order (R55, R146). -/
def sendsOf (outputs : List Output) : List Send := outputs.filterMap Output.send

/-- The frames the transport has taken out of a sequence of sends: the block's output on the wire (R146). -/
def wire (sends : List Send) : List (List Byte) :=
  (sends.filter fun x => decide (x.answer = .accepted)).map Send.frame

/-- The debug print of a string (R82): a WRITE_REQUEST of any caller, its source and type open parameters (D31). A
string over 256 bytes is submitted by its length alone, capped to the 16-bit field, and gets PAYLOAD_TOO_LARGE (R68). -/
def debugPrint (text : List Byte) : Instr :=
  .writeRequest Config.dbgSourceId false Config.dbgTypeCode .targetToHost (BitVec.ofNat 16 (min text.length 65535))
    (if text.length ≤ Config.maxPayloadSize then text else [])

/-- One control-loop iteration (R82, R197): TICK_TIMERS, then RUN, with the same time. -/
def controlLoop (nowMs : BitVec 32) : List Instr := [.tickTimers nowMs, .run nowMs]

end Sys2Proof.Machine
end

