-- ==== Sys2Proof/Machine/Step.lean ====
section
/-! DEFINITION. One step: the next input the environment presents is taken, whole and atomically
(spec/20_memory.md R48, spec/30_encoding.md R60). -/

namespace Sys2Proof.Machine

/-- One step of the machine: the operation presented is performed, and its transaction is over. With no input presented the
block does nothing (R175). -/
def step (s : State) : Host.Outcome State Fault Refusal :=
  match s.inputs with
  | [] => .next s
  | .rst :: rest => .next (takeReset rest s)
  | .command word payload _ :: rest =>
      match decode word payload with
      | .error .payloadMissing => .refused .payloadMissing
      | .ok i => mapNext (takeInput rest) (exec i s)

/-- What that step puts out: nothing unless an operation is performed and completes (R65, R190). -/
def stepOutput (s : State) : Option Output :=
  match s.inputs with
  | [] => none
  | .rst :: _ => none
  | .command word payload _ :: _ =>
      match decode word payload with
      | .error .payloadMissing => none
      | .ok i => outputOf i s

/-- `s` with an agent presenting the instruction whose bits are `w` as the next input, the transport ready to take a frame
(notes/assumptions/1, 2). -/
def State.withFetchWord (s : State) (nbits w : Nat) : State :=
  { s with inputs := tableInput nbits w .accepted :: s.inputs }

end Sys2Proof.Machine
end

