-- ==== Sys2Proof/Machine/Environment.lean ====
section
/-! DEFINITION. The duties of the environment as named assumptions (spec/60_exceptions.md R178). The block's behaviour is
defined whether or not they hold, the first apart (R192), so no definition of the machine rests on one: a claim that needs
one names it as a premise. The environment is described by what it presents, `presented n` being the `n`-th input; by the
millisecond count of the timer facility when it presents it, `clock n`; by the frame the receive-side collaborator has then
accepted, `received n`; and by the response codes that mean ACK and NACK, which the spec does not give (N6). Its liberties
need no name: nothing here or in `step` restricts when producers write, what the transport answers or what the peer does. -/

namespace Sys2Proof.Machine

/-- The operation an input asks for, none for the reset input and for what is no command. -/
def operationOf : Input → Option Instr
  | .rst => none
  | .command word payload _ =>
      match decode word payload with
      | .ok i => some i
      | .error .payloadMissing => none

/-- The input asks for a RUN. -/
def asksRun (x : Input) : Prop := ∃ t, operationOf x = some (.run t)

/-- The input asks for a TICK_TIMERS. -/
def asksTick (x : Input) : Prop := ∃ t, operationOf x = some (.tickTimers t)

/-- INIT or `rst` comes before anything else in a list of inputs. -/
def initFirst : List Input → Bool
  | [] => true
  | .rst :: _ => true
  | .command word _ _ :: _ => decide (opField word = Instr.init.opcode)

/-- The first `k` inputs the environment presents. -/
def presentedFirst (presented : Nat → Input) (k : Nat) : List Input := (List.range k).map presented

/-- Duty 1, on the driver: issue INIT, or pulse `rst`, before anything else. -/
def dutyInitFirst (presented : Nat → Input) : Prop := initFirst [presented 0] = true

/-- Duty 2, on the driver: issue RUN repeatedly, for ever. -/
def dutyRunForever (presented : Nat → Input) : Prop := ∀ n, ∃ m, n ≤ m ∧ asksRun (presented m)

/-- Duty 3, first half, on the timer and the driver: issue TICK_TIMERS about once per millisecond. After every input, a
TICK_TIMERS itself included, another one comes while the clock has advanced by at most one millisecond; and the clock always
advances, so the inputs never crowd into one millisecond for ever (R193 step 3; notes/assumptions/14). -/
def dutyTickEachMillisecond (presented : Nat → Input) (clock : Nat → Nat) : Prop :=
  (∀ n, ∃ m, n < m ∧ asksTick (presented m) ∧ clock m ≤ clock n + 1) ∧ ∀ n, ∃ m, n < m ∧ clock n < clock m

/-- Duty 3, second half: issue TICK_TIMERS before each RUN, that is between it and the RUN before it (R197). -/
def dutyTickBeforeRun (presented : Nat → Input) : Prop :=
  ∀ n, asksRun (presented n) → ∃ m, m < n ∧ asksTick (presented m) ∧ ∀ k, m < k → k < n → ¬ asksRun (presented k)

/-- Duty 4, on the timer: `now_ms` is a monotonic millisecond count, the same clock for RUN and TICK_TIMERS, of which the
operand carries the low 32 bits (R199). -/
def dutyOneMonotonicClock (presented : Nat → Input) (clock : Nat → Nat) : Prop :=
  (∀ m n, m ≤ n → clock m ≤ clock n) ∧
  ∀ n t, operationOf (presented n) = some (.run t) ∨ operationOf (presented n) = some (.tickTimers t) →
    t = BitVec.ofNat 32 (clock n)

/-- Duty 5, on the receiver: NOTIFY only for validated ACK or NACK frames of matching direction (R149, R166): NOTIFY_ACK
for a frame with a code that means ACK, NOTIFY_NACK for one with a code that means NACK. -/
def dutyNotifyValidated (presented : Nat → Input) (received : Nat → Option (List Byte)) (ackCodes nackCodes : List Byte) :
    Prop :=
  ∀ n,
    (operationOf (presented n) = some .notifyAck →
      ∃ f p, received n = some f ∧ mayNotify f = true ∧ deserialize f = .ok p ∧ p.typeCode ∈ ackCodes) ∧
    (operationOf (presented n) = some .notifyNack →
      ∃ f p, received n = some f ∧ mayNotify f = true ∧ deserialize f = .ok p ∧ p.typeCode ∈ nackCodes)

/-- Duty 6, on the transport: answer every send with Accepted or Busy, without blocking. Every transaction carries one of
the two answers, so no environment that `Input` can describe breaks it. -/
def dutyAnswerEverySend (presented : Nat → Input) : Prop :=
  ∀ n word payload answer, presented n = .command word payload answer → answer = .accepted ∨ answer = .busy

/-- Duty 7, on the producers: keep a write whole and exclusive. Whole: every payload byte of an accepted length comes with
its command. Exclusive: one input is taken at a time, and none can come inside another (R48). -/
def dutyWritesWhole (presented : Nat → Input) : Prop :=
  ∀ n word payload answer, presented n = .command word payload answer → decode word payload ≠ .error .payloadMissing

/-- All duties of the environment (R178). -/
structure EnvironmentDuties (presented : Nat → Input) (clock : Nat → Nat) (received : Nat → Option (List Byte))
    (ackCodes nackCodes : List Byte) : Prop where
  /-- duty 1 -/
  init_first : dutyInitFirst presented
  /-- duty 2 -/
  run_forever : dutyRunForever presented
  /-- duty 3, once per millisecond -/
  tick_each_millisecond : dutyTickEachMillisecond presented clock
  /-- duty 3, before each RUN -/
  tick_before_run : dutyTickBeforeRun presented
  /-- duty 4 -/
  one_monotonic_clock : dutyOneMonotonicClock presented clock
  /-- duty 5 -/
  notify_validated : dutyNotifyValidated presented received ackCodes nackCodes
  /-- duty 6 -/
  answer_every_send : dutyAnswerEverySend presented
  /-- duty 7 -/
  writes_whole : dutyWritesWhole presented

end Sys2Proof.Machine
end

