-- ==== Sys2Proof/Safety.lean ====
section
/-! DEFINITION. The terms claims are stated in: the invariants of spec/10_state.md R16 and R27, the abstract FIFO queue of
spec/20_memory.md R56, idleness (spec/70_reset_and_hazards.md R194), and what runs put out. -/

namespace Sys2Proof.Machine

/-! ### Requests and the queue -/

/-- A direction wire code the spec assigns (R76). -/
def assignedDircode (d : Byte) : Bool := decide (d = Config.dirT2H) || decide (d = Config.dirH2T)

/-- What every stored request satisfies (R16 item 4, R70). -/
def TxRequest.wf (q : TxRequest) : Bool :=
  decide (q.payloadLength.toNat ≤ Config.maxPayloadSize) && decide (q.payload.length = q.payloadLength.toNat)
    && assignedDircode q.dircode

/-- Ring bytes a request occupies (R71). -/
def TxRequest.size (q : TxRequest) : Nat := recSize q.payloadLength.toNat

/-- Ring bytes a list of requests occupies (R16 item 3). -/
def totalSize (reqs : List TxRequest) : Nat := (reqs.map TxRequest.size).sum

/-- The ring holds exactly these whole requests, oldest first (R16 items 1 to 4, 6 and 7). -/
structure QueueHolds (b : Block) (reqs : List TxRequest) : Prop where
  /-- item 4 -/
  requests_wf : ∀ q ∈ reqs, q.wf = true
  /-- `pending_count` counts them -/
  count : b.pendingCount.toNat = reqs.length
  /-- item 3 -/
  occupied : b.used.toNat = totalSize reqs
  /-- item 6 -/
  fits : b.used.toNat ≤ Config.ringUsable
  /-- item 1 -/
  cursors : b.wr.toNat = (b.rd.toNat + b.used.toNat) % Config.ringCapacity
  /-- item 2 -/
  contents : ringRead b.buf b.rd b.used.toNat = some (reqs.flatMap recordBytes)

/-- The queue invariants (R16). -/
def QueueInv (b : Block) : Prop := Memory.wf b.buf = true ∧ ∃ reqs, QueueHolds b reqs

/-- What an operation makes of the stored requests, oldest first (R56, R91 to R93, R111, R114): the abstract queue,
with no ring in it. -/
def fifoAfter (i : Instr) (fsm : FsmState) (reqs : List TxRequest) : List TxRequest :=
  match i with
  | .init => []
  | .run _ => match fsm with
    | .pollPending => reqs.tail
    | .transmitPacket => reqs
  | .writeRequest src ack typ dir len payload =>
      if len.toNat ≤ Config.maxPayloadSize ∧ totalSize reqs + recSize len.toNat ≤ Config.ringUsable
      then reqs ++ [requestOf src ack typ dir len payload] else reqs
  | .tickTimers _ | .notifyAck | .notifyNack | .fetchRequest | .pendingCount | .readRequest
  | .reserved9 | .reservedA | .reservedB | .reservedC | .reservedD | .reservedE | .reservedF => reqs

/-- A list of requests submitted with the procedure WRITE_REQUEST, every one of them accepted: the block after it, none
if one is rejected (R96, R97). -/
def writeAll : List TxRequest → Block → Option Block
  | [], b => some b
  | q :: qs, b =>
      match writeRequest q b with
      | (.ok, b') => writeAll qs b'
      | _ => none

/-- Requests submitted with the procedure WRITE_REQUEST, accepted or not (R51, R97). -/
def writeEach : List TxRequest → Block → Block
  | [], b => b
  | q :: qs, b => writeEach qs (writeRequest q b).2

/-- `n` calls of the procedure READ_REQUEST, every one of them answering OK: the requests in order and the block after
them (R96, R97). -/
def readMany : Nat → Block → Option (List TxRequest × Block)
  | 0, b => some ([], b)
  | n + 1, b =>
      match readRequest b with
      | .ok (some q, b') =>
          match readMany n b' with
          | some (qs, b'') => some (q :: qs, b'')
          | none => none
      | _ => none

/-! ### The FSM -/

/-- The FSM invariants, item by item (R27). -/
structure FsmInv (b : Block) : Prop where
  /-- item 1 -/
  retry_le : b.retryCount.toNat ≤ Config.maxRetries
  /-- item 2 -/
  poll_timer : b.fsmState = .pollPending → b.timerActive = false
  /-- item 3 -/
  timer_on : b.timerActive = true → b.fsmState = .transmitPacket ∧ b.curAck = true ∧ b.evTimeout = false
  /-- item 4 -/
  transmit_ack : b.fsmState = .transmitPacket → b.curAck = true
  /-- item 5 -/
  one_of : b.fsmState = .transmitPacket → b.timerActive = !b.evTimeout
  /-- item 6 -/
  transmit_packet : b.fsmState = .transmitPacket →
    b.curLen.toNat ≤ Config.maxPayloadSize ∧ assignedDircode b.curDircode = true
  /-- item 7 -/
  timeout_transmit : b.evTimeout = true → b.fsmState = .transmitPacket

/-- The widths that the types do not carry: the ring's canonical form (R11) and the 256 bytes of `cur_payload` (R10). -/
def Shape (b : Block) : Prop := Memory.wf b.buf = true ∧ b.curPayload.length = Config.maxPayloadSize

/-- What holds after INIT and after every operation (R16, R24, R27). -/
structure Inv (b : Block) : Prop where
  /-- the block has been initialised -/
  initialised : b.initialised = true
  /-- `cur_payload` has its 256 bytes -/
  payload_width : b.curPayload.length = Config.maxPayloadSize
  /-- R16 -/
  queue : QueueInv b
  /-- R27 -/
  fsm : FsmInv b

/-- The idle condition (R194). -/
def Idle (b : Block) : Prop := b.fsmState = .pollPending ∧ b.pendingCount = 0#8

/-- Two blocks agree on everything an operation may read. Left out: ring bytes outside the occupied region, the `cur_*`
registers outside `TransmitPacket`, `cur_payload` from `cur_len` up, `timer_start` while the timer is off (U2 and U11 of
spec/93_implementation_defined.md), and `cur_src` and `sts_send_busy` (R19, R23). -/
structure AgreeOnWhatIsRead (b c : Block) : Prop where
  initialised : c.initialised = b.initialised
  rd : c.rd = b.rd
  wr : c.wr = b.wr
  used : c.used = b.used
  pendingCount : c.pendingCount = b.pendingCount
  fsmState : c.fsmState = b.fsmState
  retryCount : c.retryCount = b.retryCount
  evAck : c.evAck = b.evAck
  evNack : c.evNack = b.evNack
  evTimeout : c.evTimeout = b.evTimeout
  timerActive : c.timerActive = b.timerActive
  /-- the occupied region (R11, R16) -/
  occupied : ringRead c.buf c.rd c.used.toNat = ringRead b.buf b.rd b.used.toNat
  /-- R22 -/
  timerStart : b.timerActive = true → c.timerStart = b.timerStart
  /-- R19 -/
  current : b.fsmState = .transmitPacket → c.curAck = b.curAck ∧ c.curType = b.curType ∧
    c.curDircode = b.curDircode ∧ c.curLen = b.curLen ∧
    c.curPayload.take c.curLen.toNat = b.curPayload.take b.curLen.toNat

/-! ### Runs and what they put out -/

/-- Operations presented in order, each with the transport's answer to the send it may make (R48, R81). -/
def presentAll (ops : List (Instr × SendAnswer)) : List Input :=
  ops.map fun x => .command (encodeWord x.1) (encodePayload x.1) x.2

/-- What the steps of a run of `k` steps put out, in order; nothing after a stop (R60, R65). -/
def runOutputs : Nat → State → List Output
  | 0, _ => []
  | k + 1, s =>
      match step s with
      | .next t => (stepOutput s).toList ++ runOutputs k t
      | .fault _ => []
      | .refused _ => []

/-- The sends a run of `k` steps makes, in order (R146). -/
def runSends (k : Nat) (s : State) : List Send := sendsOf (runOutputs k s)

/-- A NACK and the RUN that reacts to it, once for each time and answer (R130, R198). -/
def nackRounds (rounds : List (BitVec 32 × SendAnswer)) : List (Instr × SendAnswer) :=
  rounds.flatMap fun x => [(.notifyNack, x.2), (.run x.1, x.2)]

end Sys2Proof.Machine
end

