-- ==== Sys2Proof/Certificates/Slice0/Obligations.lean ====
section
/-! DEFINITION. The statements for the provers. Each says what a numbered rule of spec/ says of the machine, or what the
rules together imply; OBLIGATIONS.json gives each its rules and its words. Where a statement gives a whole next state as
an update of `s`, every register, flag and byte of memory the update does not name is unchanged: that is its frame. What an
operation puts out, its response and its send, is no part of the state (R25): `outputOf` and `stepOutput` give it. -/

open Sys2Proof Sys2Proof.Machine

/-! ### Commands -/

/-- Decoding the command of a well-formed operation gives the operation back, whatever bytes lie behind it. -/
def Obligations.DecodeInvertsEncode : Prop :=
  ∀ (i : Instr) (behind : List Byte), i.wellFormed = true →
    decode (encode i).1 ((encode i).2 ++ behind) = .ok i

/-- What decodes is well formed, and its word is the presented word but for the reserved bits. -/
def Obligations.EncodeInvertsDecode : Prop :=
  ∀ (w : CommandWord) (bytes : List Byte) (i : Instr), decode w bytes = .ok i →
    i.wellFormed = true ∧ encodeWord i = w &&& significantBits (opField w) ∧ encodePayload i <+: bytes

/-- R64: the machine behaves the same for every value of the reserved bits of a command word. -/
def Obligations.ReservedCommandBitsAreIgnored : Prop :=
  ∀ (w w' : CommandWord), opField w = opField w' →
    w &&& significantBits (opField w) = w' &&& significantBits (opField w') →
    ∀ (bytes : List Byte) (a : SendAnswer) (rest : List Input) (s : State),
      step { s with inputs := .command w bytes a :: rest } = step { s with inputs := .command w' bytes a :: rest } ∧
      stepOutput { s with inputs := .command w bytes a :: rest } =
        stepOutput { s with inputs := .command w' bytes a :: rest }

/-- A transaction is no command exactly when it is a WRITE_REQUEST of an accepted length presented with too few payload
bytes (the model's reading: notes/assumptions/6). -/
def Obligations.OnlyShortPayloadIsUndecodable : Prop :=
  ∀ (w : CommandWord) (bytes : List Byte),
    decode w bytes = .error .payloadMissing ↔
      opField w = 0x5#4 ∧ (payloadLengthField w).toNat ≤ 256 ∧ bytes.length < (payloadLengthField w).toNat

/-- Words written out in spec/95_test_vectors.md (V-E1, V-E3, V-E5 to V-E8, V-E10, V-E13, V-E15, V-E18 to V-E22) decode to
the operations they stand for: one of every operation code. -/
def Obligations.SpecCommandWordsDecode : Prop :=
  decode 0x0000000000#40 [] = .ok .init ∧
  decode 0x0000003201#40 [] = .ok (.run 50) ∧
  decode 0x0000041A02#40 [] = .ok (.tickTimers 1050) ∧
  decode 0x0000000003#40 [] = .ok .notifyAck ∧
  decode 0x0000000004#40 [] = .ok .notifyNack ∧
  decode 0x0007060015#40 [0x48, 0x45, 0x4C, 0x4C, 0x4F, 0x21, 0x0A] =
    .ok (.writeRequest 1 false 0x60 .targetToHost 7 [0x48, 0x45, 0x4C, 0x4C, 0x4F, 0x21, 0x0A]) ∧
  decode 0x00041AC895#40 [1, 2, 3, 4] = .ok (.writeRequest 9 true 0xAC .hostToTarget 4 [1, 2, 3, 4]) ∧
  decode 0x0101060015#40 [1] = .ok (.writeRequest 1 false 0x60 .targetToHost 257 []) ∧
  decode 0x0007E60015#40 [1, 2, 3, 4, 5, 6, 7, 8] =
    .ok (.writeRequest 1 false 0x60 .targetToHost 7 [1, 2, 3, 4, 5, 6, 7]) ∧
  decode 0x0000000006#40 [] = .ok .fetchRequest ∧
  decode 0x0000000007#40 [] = .ok .pendingCount ∧
  decode 0x0000000008#40 [] = .ok .readRequest ∧
  decode 0x0000000009#40 [] = .ok .reserved9 ∧
  decode 0x000000000A#40 [] = .ok .reservedA ∧
  decode 0x000000000B#40 [] = .ok .reservedB ∧
  decode 0x000000000C#40 [] = .ok .reservedC ∧
  decode 0x000000000D#40 [] = .ok .reservedD ∧
  decode 0x000000000E#40 [] = .ok .reservedE ∧
  decode 0x000000000F#40 [] = .ok .reservedF ∧
  decode 0x123456789F#40 [] = .ok .reservedF

/-! ### One step -/

/-- A step performs the operation that the next command decodes to, with the answer of the transport that came with it, then
takes that command off; it puts out what the operation puts out. With nothing presented the machine stays as it is and puts
nothing out (the model's reading of the port: notes/assumptions/1, 2, 3). -/
def Obligations.StepPerformsThePresentedCommand : Prop :=
  (∀ (s : State) (w : CommandWord) (bytes : List Byte) (a : SendAnswer) (rest : List Input) (i : Instr),
    s.inputs = .command w bytes a :: rest → decode w bytes = .ok i →
      step s = mapNext (fun t => { t with inputs := rest }) (exec i s) ∧ presentedAnswer s = a ∧
      stepOutput s = outputOf i s) ∧
  (∀ s : State, s.inputs = [] → step s = .next s ∧ stepOutput s = none)

/-- R190 and R191: asserting `rst` has exactly the effect of INIT on the block, which is all the architectural state, and
nothing is transmitted. That `rst` is an input taken by a step (notes/assumptions/1) and that it returns no response, since
no command was presented (notes/assumptions/3), is the model's choice. -/
def Obligations.RstHasTheEffectOfInit : Prop :=
  ∀ (s : State) (rest : List Input), s.inputs = .rst :: rest →
    ∃ t u, exec .init s = .next t ∧ step s = .next u ∧ u.toBlock = t.toBlock ∧ u.inputs = rest ∧ stepOutput s = none

/-- After reset the queue is empty, the FSM is in PollPending with no retries spent, nothing is pending and nothing is put
out (that nothing is presented then is the model's choice: notes/assumptions/1). -/
def Obligations.ResetStateIsEmptyAndIdle : Prop :=
  State.reset.pendingCount = 0#8 ∧ State.reset.used = 0#11 ∧ freeSpace State.reset.toBlock = 1024 ∧
  State.reset.rd = 0#10 ∧ State.reset.wr = 0#10 ∧ State.reset.fsmState = .pollPending ∧
  State.reset.retryCount = 0#2 ∧ State.reset.evAck = false ∧ State.reset.evNack = false ∧
  State.reset.evTimeout = false ∧ State.reset.timerActive = false ∧ State.reset.stsSendBusy = false ∧
  State.reset.initialised = true ∧ stepOutput State.reset = none

/-! ### INIT and the time before it -/

/-- R111: what INIT writes, and that it leaves `buf`, `cur_*` and `timer_start` alone. It completes in every state. -/
def Obligations.InitResetsTheBlock : Prop :=
  ∀ s : State, exec .init s = .next { s with
      initialised := true, rd := 0, wr := 0, used := 0, pendingCount := 0, fsmState := .pollPending, retryCount := 0
      evAck := false, evNack := false, evTimeout := false, timerActive := false, stsSendBusy := false } ∧
    outputOf .init s = some ⟨⟨0#48, []⟩, none⟩

/-- Before the first INIT every other operation is refused by name and puts nothing out: R192 gives it no result and asks a
model to refuse it; that this holds of the reserved codes too is deduced (notes/assumptions/7). -/
def Obligations.OperationsBeforeInitAreRefused : Prop :=
  ∀ (i : Instr) (s : State), s.initialised = false → i ≠ .init →
    exec i s = .refused .notInitialised ∧ outputOf i s = none

/-- R24: INIT and `rst` set `initialised`, and no step clears it. -/
def Obligations.NothingClearsInitialised : Prop :=
  (∀ s t : State, exec .init s = .next t → t.initialised = true) ∧
  (∀ (s t : State) (rest : List Input), s.inputs = .rst :: rest → step s = .next t → t.initialised = true) ∧
  (∀ s t : State, s.initialised = true → step s = .next t → t.initialised = true)

/-! ### The Request Queue -/

/-- R163: a length over 256 is rejected before the space test, with no side effect, in every state of the queue. -/
def Obligations.WriteRejectsOversizedPayload : Prop :=
  ∀ (s : State) (src : BitVec 7) (ack : Bool) (typ : Byte) (dir : Direction) (len : BitVec 16) (p : List Byte),
    s.initialised = true → 256 < len.toNat →
      exec (.writeRequest src ack typ dir len p) s = .next s ∧
      outputOf (.writeRequest src ack typ dir len p) s = some ⟨⟨2#48, []⟩, none⟩

/-- R162: too little free space for an accepted length is reported by that operation and changes nothing. -/
def Obligations.WriteRejectedForLackOfRoom : Prop :=
  ∀ (s : State) (src : BitVec 7) (ack : Bool) (typ : Byte) (dir : Direction) (len : BitVec 16) (p : List Byte),
    s.initialised = true → len.toNat ≤ 256 → 1024 - s.used.toNat < 5 + len.toNat →
      exec (.writeRequest src ack typ dir len p) s = .next s ∧
      outputOf (.writeRequest src ack typ dir len p) s = some ⟨⟨1#48, []⟩, none⟩

/-- R91 with R70: an accepted WRITE_REQUEST stores the record's bytes from `wr` on, taken mod 1024, moves `wr`, `used` and
`pending_count`, and leaves every other byte of the ring and every other register alone. The direction is stored as its
wire byte, 0xAA for target to host and 0xBB for host to target (R63, R76). -/
def Obligations.WriteStoresTheRecord : Prop :=
  ∀ (s : State) (src : BitVec 7) (ack : Bool) (typ : Byte) (dir : Direction) (len : BitVec 16) (p : List Byte),
    s.initialised = true → (Instr.writeRequest src ack typ dir len p).wellFormed = true →
    len.toNat ≤ 256 → 5 + len.toNat ≤ 1024 - s.used.toNat →
      ∃ m : Ring,
        exec (.writeRequest src ack typ dir len p) s = .next { s with
          buf := m
          wr := s.wr + BitVec.ofNat 10 (5 + len.toNat)
          used := s.used + BitVec.ofNat 11 (5 + len.toNat)
          pendingCount := s.pendingCount + 1 } ∧
        outputOf (.writeRequest src ack typ dir len p) s = some ⟨⟨0#48, []⟩, none⟩ ∧
        (∀ k, k < 5 + len.toNat → Ring.read m ((s.wr.toNat + k) % 1024) =
          ([BitVec.ofBool ack ++ src, typ, match dir with | .targetToHost => 0xAA#8 | .hostToTarget => 0xBB#8,
            len.extractLsb' 0 8, len.extractLsb' 8 8] ++ p)[k]?) ∧
        (∀ x, (∀ k, k < 5 + len.toNat → x ≠ (s.wr.toNat + k) % 1024) → Ring.read m x = Ring.read s.buf x)

/-- Only WRITE_REQUEST stores to the ring: after any other operation every byte reads as before. -/
def Obligations.OnlyWriteRequestStoresToTheRing : Prop :=
  ∀ (i : Instr) (s t : State), i.opcode ≠ 0x5#4 → exec i s = .next t →
    ∀ x, Ring.read t.buf x = Ring.read s.buf x

/-- R93: FETCH_REQUEST answers the oldest request, its payload behind the word, and writes no state. -/
def Obligations.FetchReturnsTheOldestRequest : Prop :=
  ∀ (s : State) (q : TxRequest) (reqs : List TxRequest), s.initialised = true → QueueHolds s.toBlock (q :: reqs) →
    exec .fetchRequest s = .next s ∧ outputOf .fetchRequest s = some ⟨⟨wordRQ q, q.payload⟩, none⟩

/-- FETCH_REQUEST on an empty queue answers EMPTY, all other fields 0, no bytes, and writes no state. -/
def Obligations.FetchOnEmptyQueueAnswersEmpty : Prop :=
  ∀ s : State, s.initialised = true → s.pendingCount = 0#8 →
    exec .fetchRequest s = .next s ∧ outputOf .fetchRequest s = some ⟨⟨3#48, []⟩, none⟩

/-- R94: PENDING_COUNT answers the number of whole requests stored, at most 204, which is also on the status view. -/
def Obligations.PendingCountReportsTheCount : Prop :=
  (∀ s : State, s.initialised = true →
    exec .pendingCount s = .next s ∧ outputOf .pendingCount s = some ⟨⟨wordRC s.pendingCount, []⟩, none⟩) ∧
  (∀ (b : Block) (reqs : List TxRequest), QueueHolds b reqs →
    b.pendingCount.toNat = reqs.length ∧ reqs.length ≤ 204 ∧ (statusView b).pendingCount = b.pendingCount)

/-- R67: READ_REQUEST on the command port changes no state and answers ILLEGAL_OP, as an operation and as a word. -/
def Obligations.ReadRequestOnThePortIsIllegal : Prop :=
  (∀ s : State, s.initialised = true →
    exec .readRequest s = .next s ∧ outputOf .readRequest s = some ⟨⟨4#48, []⟩, none⟩) ∧
  (∀ (s : State) (w : CommandWord) (bytes : List Byte) (a : SendAnswer) (rest : List Input),
    s.initialised = true → opField w = 8#4 → s.inputs = .command w bytes a :: rest →
      step s = .next { s with inputs := rest } ∧ stepOutput s = some ⟨⟨4#48, []⟩, none⟩)

/-- R66: every reserved code changes no state and answers ILLEGAL_OP, as an operation and as a word on the port. -/
def Obligations.ReservedCodesAreIllegal : Prop :=
  (∀ i ∈ [Instr.reserved9, .reservedA, .reservedB, .reservedC, .reservedD, .reservedE, .reservedF],
    ∀ s : State, s.initialised = true → exec i s = .next s ∧ outputOf i s = some ⟨⟨4#48, []⟩, none⟩) ∧
  (∀ (s : State) (w : CommandWord) (bytes : List Byte) (a : SendAnswer) (rest : List Input),
    s.initialised = true → 9 ≤ (opField w).toNat → s.inputs = .command w bytes a :: rest →
      step s = .next { s with inputs := rest } ∧ stepOutput s = some ⟨⟨4#48, []⟩, none⟩)

/-- The figures of R16 items 5 and 6, from what the ring holds. -/
def Obligations.QueueFiguresAgree : Prop :=
  ∀ (b : Block) (reqs : List TxRequest), QueueHolds b reqs →
    (b.pendingCount = 0#8 ↔ b.used = 0#11) ∧ b.used.toNat ≤ 1024 ∧ b.pendingCount.toNat ≤ 204

/-- The capacity law: N accepted writes and then N reads leave `pending_count` where it was, and from an empty queue they
leave the whole ring free again. From any queue the reads take the N oldest requests, old ones first, and `used` is what it
was and the bytes written less the bytes of those: the same again exactly when the two are equal (notes/assumptions/11). -/
def Obligations.CapacityLaw : Prop :=
  ∀ (b b1 : Block) (old new : List TxRequest), QueueHolds b old → (∀ q ∈ new, q.wf = true) →
    writeAll new b = some b1 →
      ∃ out b2, readMany new.length b1 = some (out, b2) ∧ b2.pendingCount = b.pendingCount ∧
        out = (old ++ new).take new.length ∧ b2.used.toNat + totalSize out = b.used.toNat + totalSize new ∧
        (b2.used = b.used ↔ totalSize out = totalSize new) ∧
        (old = [] → b2.pendingCount = 0#8 ∧ freeSpace b2 = 1024)

/-- The general sentence of R96, for a queue that already holds requests: `used` is claimed to be what it was. The reads
take the OLDEST records, which need not be as long as the ones written, so the sentence is expected to fail. -/
def Obligations.CapacityLawForUsedFromAnyQueue : Prop :=
  ∀ (b b1 b2 : Block) (old new out : List TxRequest), QueueHolds b old → (∀ q ∈ new, q.wf = true) →
    writeAll new b = some b1 → readMany new.length b1 = some (out, b2) →
      b2.pendingCount = b.pendingCount ∧ b2.used = b.used

/-- R97: (a) READ_REQUEST returns what FETCH_REQUEST showed, WRITE_REQUESTs in between or not; (b) requests accepted into
an empty queue are read back in order, each with exactly its fields and payload. -/
def Obligations.PeekLawAndFifoLaw : Prop :=
  (∀ (b : Block) (q : TxRequest) (reqs between : List TxRequest), QueueHolds b reqs →
    (∀ w ∈ between, w.wf = true ∨ 256 < w.payloadLength.toNat) → peekRequest b = .ok (some q) →
      ∃ c, readRequest (writeEach between b) = .ok (some q, c)) ∧
  (∀ (b b1 : Block) (reqs : List TxRequest), QueueHolds b [] → (∀ q ∈ reqs, q.wf = true) →
    writeAll reqs b = some b1 → ∃ b2, readMany reqs.length b1 = some (reqs, b2))

/-- R98: at most 204 requests; 204 empty ones fit an empty queue and no further one does; three of the largest fit and a
fourth does not. -/
def Obligations.QueueCapacityInRequests : Prop :=
  (∀ (b : Block) (reqs : List TxRequest), QueueHolds b reqs → reqs.length ≤ 204) ∧
  (∀ (b : Block) (reqs : List TxRequest) (q : TxRequest), QueueHolds b [] → (∀ x ∈ q :: reqs, x.wf = true) →
    reqs.length = 204 → (∀ x ∈ reqs, x.payloadLength = 0) →
      ∃ c, writeAll reqs b = some c ∧ c.used.toNat = 1020 ∧ writeRequest q c = (.queueFull, c)) ∧
  (∀ (b : Block) (reqs : List TxRequest) (q : TxRequest), QueueHolds b [] → (∀ x ∈ q :: reqs, x.wf = true) →
    reqs.length = 3 → (∀ x ∈ q :: reqs, x.payloadLength = 256) →
      ∃ c, writeAll reqs b = some c ∧ c.used.toNat = 783 ∧ writeRequest q c = (.queueFull, c))

/-- The ring implements a FIFO of whole requests: every operation takes a block whose ring holds `reqs` to one whose ring
holds what the abstract queue holds after it, a WRITE_REQUEST is accepted exactly when the abstract queue takes it, and a
RUN that dequeues loads the oldest request. -/
def Obligations.RingRefinesTheFifoQueue : Prop :=
  ∀ (i : Instr) (s t : State) (reqs : List TxRequest), i.wellFormed = true → QueueHolds s.toBlock reqs →
    exec i s = .next t →
    QueueHolds t.toBlock (fifoAfter i s.fsmState reqs) ∧
    (i.opcode = 0x5#4 → (outputOf i s = some ⟨⟨0#48, []⟩, none⟩ ↔ fifoAfter i s.fsmState reqs ≠ reqs)) ∧
    (∀ now q rest, i = .run now → s.fsmState = .pollPending → reqs = q :: rest →
      t.curSrc = q.source ∧ t.curAck = q.ackRequired ∧ t.curType = q.typeCode ∧ t.curDircode = q.dircode ∧
      t.curLen = q.payloadLength ∧ t.curPayload.take q.payloadLength.toNat = q.payload)

/-! ### RUN, row by row of the transition table -/

/-- R126: RUN in PollPending with an empty queue changes no state; pending events stay. -/
def Obligations.RunIdleChangesNothing : Prop :=
  ∀ (s : State) (now : BitVec 32), s.initialised = true → s.fsmState = .pollPending → s.pendingCount = 0#8 →
    exec (.run now) s = .next s ∧ outputOf (.run now) s = some ⟨⟨0#48, []⟩, none⟩

/-- RUN in PollPending with an ack-required request oldest: dequeue, retry count 0, events cleared, frame sent, timer
started at `now_ms`, TransmitPacket; the response tells the dequeue and, in `tx`, the transport's answer. Of `cur_payload`
only the bytes below `cur_len` are said (R19). -/
def Obligations.RunDequeuesAckRequest : Prop :=
  ∀ (s : State) (now : BitVec 32) (q : TxRequest) (reqs : List TxRequest),
    s.initialised = true → s.fsmState = .pollPending → QueueHolds s.toBlock (q :: reqs) → q.ackRequired = true →
    (∃ loaded, loaded.take q.payloadLength.toNat = q.payload ∧ exec (.run now) s = .next { s with
      rd := s.rd + BitVec.ofNat 10 (5 + q.payloadLength.toNat)
      used := s.used - BitVec.ofNat 11 (5 + q.payloadLength.toNat)
      pendingCount := s.pendingCount - 1
      curSrc := q.source, curAck := true, curType := q.typeCode, curDircode := q.dircode, curLen := q.payloadLength
      curPayload := loaded
      retryCount := 0, evAck := false, evNack := false, evTimeout := false
      fsmState := .transmitPacket, timerActive := true, timerStart := now
      stsSendBusy := s.stsSendBusy || decide (presentedAnswer s = .busy) }) ∧
    outputOf (.run now) s = some
      ⟨⟨match presentedAnswer s with | .accepted => 0x030#48 | .busy => 0x050#48, []⟩,
        some ⟨serialize q.typeCode q.dircode q.payloadLength q.payload, presentedAnswer s⟩⟩

/-- RUN in PollPending with a no-ack request oldest: the same, but no timer is started and the FSM is back in PollPending
in the same RUN, whose response tells `done` too. -/
def Obligations.RunDequeuesNoAckRequest : Prop :=
  ∀ (s : State) (now : BitVec 32) (q : TxRequest) (reqs : List TxRequest),
    s.initialised = true → s.fsmState = .pollPending → QueueHolds s.toBlock (q :: reqs) → q.ackRequired = false →
    (∃ loaded, loaded.take q.payloadLength.toNat = q.payload ∧ exec (.run now) s = .next { s with
      rd := s.rd + BitVec.ofNat 10 (5 + q.payloadLength.toNat)
      used := s.used - BitVec.ofNat 11 (5 + q.payloadLength.toNat)
      pendingCount := s.pendingCount - 1
      curSrc := q.source, curAck := false, curType := q.typeCode, curDircode := q.dircode, curLen := q.payloadLength
      curPayload := loaded
      retryCount := 0, evAck := false, evNack := false, evTimeout := false
      timerActive := false
      stsSendBusy := s.stsSendBusy || decide (presentedAnswer s = .busy) }) ∧
    outputOf (.run now) s = some
      ⟨⟨match presentedAnswer s with | .accepted => 0x0B0#48 | .busy => 0x0D0#48, []⟩,
        some ⟨serialize q.typeCode q.dircode q.payloadLength q.payload, presentedAnswer s⟩⟩

/-- R116 (a): a RUN that finds `ev_ack` in TransmitPacket completes the request, whatever else is pending. -/
def Obligations.RunTakesAckFirst : Prop :=
  ∀ (s : State) (now : BitVec 32), s.initialised = true → s.fsmState = .transmitPacket → s.evAck = true →
    exec (.run now) s = .next { s with
      timerActive := false, evAck := false, evNack := false, evTimeout := false, fsmState := .pollPending } ∧
    outputOf (.run now) s = some ⟨⟨0x080#48, []⟩, none⟩

/-- R117: a RUN that finds `ev_nack` and no `ev_ack` resends the same frame and restarts the window from `now_ms`; a
pending timeout is cleared and no retry budget is spent. -/
def Obligations.RunResendsOnNack : Prop :=
  ∀ (s : State) (now : BitVec 32), s.initialised = true → s.fsmState = .transmitPacket → s.curAck = true →
    s.evAck = false → s.evNack = true →
    exec (.run now) s = .next { s with
      timerActive := true, timerStart := now, evNack := false, evTimeout := false
      stsSendBusy := s.stsSendBusy || decide (presentedAnswer s = .busy) } ∧
    outputOf (.run now) s = some
      ⟨⟨match presentedAnswer s with | .accepted => 0x020#48 | .busy => 0x040#48, []⟩,
        some ⟨serialize s.curType s.curDircode s.curLen (s.curPayload.take s.curLen.toNat), presentedAnswer s⟩⟩

/-- R119: a RUN that finds only `ev_timeout`, with `retry_count < 2`, spends one retry and resends. -/
def Obligations.RunRetriesOnTimeout : Prop :=
  ∀ (s : State) (now : BitVec 32), s.initialised = true → s.fsmState = .transmitPacket → s.curAck = true →
    s.evAck = false → s.evNack = false → s.evTimeout = true → s.retryCount.toNat < 2 →
    exec (.run now) s = .next { s with
      retryCount := s.retryCount + 1
      timerActive := true, timerStart := now, evTimeout := false
      stsSendBusy := s.stsSendBusy || decide (presentedAnswer s = .busy) } ∧
    outputOf (.run now) s = some
      ⟨⟨match presentedAnswer s with | .accepted => 0x020#48 | .busy => 0x040#48, []⟩,
        some ⟨serialize s.curType s.curDircode s.curLen (s.curPayload.take s.curLen.toNat), presentedAnswer s⟩⟩

/-- R123: a RUN that finds only `ev_timeout`, with `retry_count = 2`, drops the request: nothing is sent, `retry_count`
stays 2, the `cur_*` registers keep what they hold. -/
def Obligations.RunDropsAfterTwoRetries : Prop :=
  ∀ (s : State) (now : BitVec 32), s.initialised = true → s.fsmState = .transmitPacket →
    s.evAck = false → s.evNack = false → s.evTimeout = true → s.retryCount = 2#2 →
    exec (.run now) s = .next { s with timerActive := false, evTimeout := false, fsmState := .pollPending } ∧
    outputOf (.run now) s = some ⟨⟨0x100#48, []⟩, none⟩

/-- R125: RUN in TransmitPacket with no event pending changes no state and sends nothing. -/
def Obligations.RunWaitsForAnEvent : Prop :=
  ∀ (s : State) (now : BitVec 32), s.initialised = true → s.fsmState = .transmitPacket →
    s.evAck = false → s.evNack = false → s.evTimeout = false →
    exec (.run now) s = .next s ∧ outputOf (.run now) s = some ⟨⟨0#48, []⟩, none⟩

/-- R128: in a block whose FSM invariants hold, the response of a RUN is one of the combinations of the table, each with
the FSM state it leads to. -/
def Obligations.RunResponseCombinations : Prop :=
  ∀ (s t : State) (now : BitVec 32), FsmInv s.toBlock → exec (.run now) s = .next t →
    ∃ o, outputOf (.run now) s = some o ∧
      ((t.fsmState = .pollPending ∧
        ∃ w ∈ [0x000#48, 0x0B0#48, 0x0D0#48, 0x080#48, 0x100#48], o.response = ⟨w, []⟩) ∨
      (t.fsmState = .transmitPacket ∧
        ∃ w ∈ [0x000#48, 0x030#48, 0x050#48, 0x020#48, 0x040#48], o.response = ⟨w, []⟩))

/-- An operation makes no send, or it is a RUN that makes exactly one, of the frame of the current request, and for one of
three causes: it dequeued that request, it reacted to a NACK with the retry count kept, or it reacted to a timeout with
the retry count one higher. -/
def Obligations.EverySendHasOneOfThreeCauses : Prop :=
  ∀ (i : Instr) (s t : State), exec i s = .next t → ∃ o, outputOf i s = some o ∧
    (o.send = none ∨
      (∃ now, i = .run now) ∧
      o.send = some ⟨serialize t.curType t.curDircode t.curLen (t.curPayload.take t.curLen.toNat), presentedAnswer s⟩ ∧
      ((s.fsmState = .pollPending ∧ s.pendingCount ≠ 0#8 ∧ t.pendingCount = s.pendingCount - 1 ∧ t.retryCount = 0#2) ∨
        (s.fsmState = .transmitPacket ∧ s.evAck = false ∧ s.evNack = true ∧ t.pendingCount = s.pendingCount ∧
          t.retryCount = s.retryCount) ∨
        (s.fsmState = .transmitPacket ∧ s.evAck = false ∧ s.evNack = false ∧ s.evTimeout = true ∧
          s.retryCount.toNat < 2 ∧ t.pendingCount = s.pendingCount ∧ t.retryCount = s.retryCount + 1)))

/-- `retry_count` is written by INIT (0), by a dequeue (0) and by a retry (one more), and by nothing else. -/
def Obligations.RetryCountIsWrittenInThreePlaces : Prop :=
  ∀ (i : Instr) (s t : State), exec i s = .next t →
    t.retryCount = s.retryCount ∨
    (i = .init ∧ t.retryCount = 0#2) ∨
    (∃ now, i = .run now ∧ s.fsmState = .pollPending ∧ s.pendingCount ≠ 0#8 ∧ t.retryCount = 0#2) ∨
    (∃ now, i = .run now ∧ s.fsmState = .transmitPacket ∧ s.evTimeout = true ∧ s.evAck = false ∧ s.evNack = false ∧
      s.retryCount.toNat < 2 ∧ t.retryCount = s.retryCount + 1)

/-- The `cur_*` registers and the read cursor change only at a dequeue by RUN (the cursor also at INIT): a retransmission
leaves the current request as it is. -/
def Obligations.CurrentRequestChangesOnlyAtDequeue : Prop :=
  ∀ (i : Instr) (s t : State), exec i s = .next t →
    (∃ now, i = .run now ∧ s.fsmState = .pollPending ∧ s.pendingCount ≠ 0#8) ∨
    (t.curSrc = s.curSrc ∧ t.curAck = s.curAck ∧ t.curType = s.curType ∧ t.curDircode = s.curDircode ∧
      t.curLen = s.curLen ∧ t.curPayload = s.curPayload ∧ (i ≠ .init → t.rd = s.rd))

/-- R23: `sts_send_busy` becomes 1 only by a RUN whose send the transport answered Busy, that RUN always sets it, and only
INIT clears it. -/
def Obligations.SendBusyIsSticky : Prop :=
  ∀ (i : Instr) (s t : State), exec i s = .next t → ∃ o, outputOf i s = some o ∧
    (i = .init → t.stsSendBusy = false) ∧
    (i ≠ .init → t.stsSendBusy = (s.stsSendBusy || decide (o.send.map Send.answer = some .busy)))

/-! ### Timer and events -/

/-- R120: TICK_TIMERS fires an active timer whose window has passed, once, and otherwise does nothing; a second
TICK_TIMERS with the same time changes nothing. -/
def Obligations.TickTimersExaminesTheTimer : Prop :=
  ∀ (s : State) (now : BitVec 32), s.initialised = true →
    outputOf (.tickTimers now) s = some ⟨⟨0#48, []⟩, none⟩ ∧
    (s.timerActive = true → 50 ≤ (now - s.timerStart).toNat →
      exec (.tickTimers now) s = .next { s with evTimeout := true, timerActive := false }) ∧
    (s.timerActive = false ∨ (now - s.timerStart).toNat < 50 → exec (.tickTimers now) s = .next s) ∧
    (∀ t : State, exec (.tickTimers now) s = .next t → exec (.tickTimers now) t = .next t)

/-- Elapsed time is taken mod 2^32: with `now_ms = timer_start + e` an active timer fires exactly when `50 ≤ e`, wrap or
no wrap, and with `now_ms` behind `timer_start` by up to 2^32 - 50 it fires at once. -/
def Obligations.ElapsedTimeIsModular : Prop :=
  ∀ (s : State) (e : Nat), s.initialised = true → s.timerActive = true → e < 2 ^ 32 →
    (∃ t, exec (.tickTimers (s.timerStart + BitVec.ofNat 32 e)) s = .next t ∧
      (t.timerActive = false ↔ 50 ≤ e) ∧ t.evTimeout = (s.evTimeout || decide (50 ≤ e))) ∧
    (1 ≤ e → e ≤ 2 ^ 32 - 50 →
      ∃ t, exec (.tickTimers (s.timerStart - BitVec.ofNat 32 e)) s = .next t ∧
        t.evTimeout = true ∧ t.timerActive = false)

/-- A timeout never comes early: `ev_timeout` is raised only by a TICK_TIMERS at least 50 after the time of the RUN that
started the timer, and that RUN made a send at that time. -/
def Obligations.TimeoutNeverComesEarly : Prop :=
  ∀ (i : Instr) (s t : State), exec i s = .next t →
    (s.evTimeout = false → t.evTimeout = true →
      ∃ now, i = .tickTimers now ∧ s.timerActive = true ∧ 50 ≤ (now - s.timerStart).toNat) ∧
    (t.timerActive = true → (s.timerActive = true ∧ t.timerStart = s.timerStart) ∨
      ∃ now o x, i = .run now ∧ t.timerStart = now ∧ outputOf i s = some o ∧ o.send = some x)

/-- R121 and R122: NOTIFY_ACK and NOTIFY_NACK set their flag, in either FSM state, and do nothing else. -/
def Obligations.NotifyRaisesItsEvent : Prop :=
  ∀ s : State, s.initialised = true →
    (exec .notifyAck s = .next { s with evAck := true } ∧ outputOf .notifyAck s = some ⟨⟨0#48, []⟩, none⟩) ∧
    (exec .notifyNack s = .next { s with evNack := true } ∧ outputOf .notifyNack s = some ⟨⟨0#48, []⟩, none⟩)

/-- R130: however many times a NACK is notified and a RUN reacts to it, each RUN sends the identical frame, no retry is
spent and the request stays in flight. -/
def Obligations.NackStormNeverEnds : Prop :=
  ∀ (rounds : List (BitVec 32 × SendAnswer)) (rest : List Input) (s : State), s.initialised = true →
    s.fsmState = .transmitPacket → s.curAck = true → s.evAck = false →
    s.inputs = presentAll (nackRounds rounds) ++ rest →
    ∃ t : State, Sys2Proof.core.run (2 * rounds.length) s = .next t ∧ t.inputs = rest ∧ t.fsmState = .transmitPacket ∧
      t.retryCount = s.retryCount ∧ t.pendingCount = s.pendingCount ∧
      runSends (2 * rounds.length) s = rounds.map fun x =>
        ⟨serialize s.curType s.curDircode s.curLen (s.curPayload.take s.curLen.toNat), x.2⟩

/-- R129, neither ACK nor NACK: exactly three sends of one frame, then the drop, whatever the transport answers; the
requests behind it are still there. -/
def Obligations.SilenceDropsAfterThreeSends : Prop :=
  ∀ (s : State) (q : TxRequest) (reqs : List TxRequest) (rest : List Input) (t0 t1 u1 t2 u2 t3 u3 : BitVec 32)
    (a0 b1 a1 b2 a2 b3 a3 : SendAnswer),
    s.initialised = true → s.fsmState = .pollPending → QueueHolds s.toBlock (q :: reqs) → q.ackRequired = true →
    50 ≤ (t1 - t0).toNat → 50 ≤ (t2 - u1).toNat → 50 ≤ (t3 - u2).toNat →
    s.inputs = presentAll [(.run t0, a0), (.tickTimers t1, b1), (.run u1, a1), (.tickTimers t2, b2), (.run u2, a2),
      (.tickTimers t3, b3), (.run u3, a3)] ++ rest →
    ∃ (t : State) (last : Output), Sys2Proof.core.run 7 s = .next t ∧ t.inputs = rest ∧
      runSends 7 s = [⟨serialize q.typeCode q.dircode q.payloadLength q.payload, a0⟩,
        ⟨serialize q.typeCode q.dircode q.payloadLength q.payload, a1⟩,
        ⟨serialize q.typeCode q.dircode q.payloadLength q.payload, a2⟩] ∧
      t.fsmState = .pollPending ∧ t.retryCount = 2#2 ∧ t.timerActive = false ∧ QueueHolds t.toBlock reqs ∧
      (runOutputs 7 s).length = 7 ∧ (runOutputs 7 s).getLast? = some last ∧ last.response = ⟨0x100#48, []⟩

/-- R131 item 5: two full windows without an answer and then an ACK: exactly three sends of one frame, `retry_count` 2, the
request completed. -/
def Obligations.TwoTimeoutsThenAckCompletes : Prop :=
  ∀ (s : State) (q : TxRequest) (reqs : List TxRequest) (rest : List Input) (t0 t1 u1 t2 u2 u3 : BitVec 32)
    (a0 b1 a1 b2 a2 b3 a3 : SendAnswer),
    s.initialised = true → s.fsmState = .pollPending → QueueHolds s.toBlock (q :: reqs) → q.ackRequired = true →
    50 ≤ (t1 - t0).toNat → 50 ≤ (t2 - u1).toNat →
    s.inputs = presentAll [(.run t0, a0), (.tickTimers t1, b1), (.run u1, a1), (.tickTimers t2, b2), (.run u2, a2),
      (.notifyAck, b3), (.run u3, a3)] ++ rest →
    ∃ (t : State) (last : Output), Sys2Proof.core.run 7 s = .next t ∧ t.inputs = rest ∧
      runSends 7 s = [⟨serialize q.typeCode q.dircode q.payloadLength q.payload, a0⟩,
        ⟨serialize q.typeCode q.dircode q.payloadLength q.payload, a1⟩,
        ⟨serialize q.typeCode q.dircode q.payloadLength q.payload, a2⟩] ∧
      t.fsmState = .pollPending ∧ t.retryCount = 2#2 ∧ QueueHolds t.toBlock reqs ∧
      (runOutputs 7 s).length = 7 ∧ (runOutputs 7 s).getLast? = some last ∧ last.response = ⟨0x080#48, []⟩

/-- R194: in an idle block nothing is sent and the block stays idle until a WRITE_REQUEST; a RUN does nothing. -/
def Obligations.IdleBlockSendsNothing : Prop :=
  ∀ (i : Instr) (s t : State), Idle s.toBlock → i.opcode ≠ 0x5#4 → exec i s = .next t →
    ∃ o, outputOf i s = some o ∧ o.send = none ∧ Idle t.toBlock ∧ (∀ now, i = .run now → t = s)

/-! ### The codec and what is put out -/

/-- R145 items 1 to 3 for any checksum function: the length, the place of every part, and that different inputs give
different frames. -/
def Obligations.FrameLayout : Prop :=
  ∀ (crc : List Byte → BitVec 32) (t d : Byte) (n : BitVec 16) (p : List Byte), p.length = n.toNat →
    (serializeWith crc t d n p).length = 12 + n.toNat ∧
    (serializeWith crc t d n p).take 6 = [0x7F#8, 0xFF#8, t, d, n.extractLsb' 0 8, n.extractLsb' 8 8] ∧
    ((serializeWith crc t d n p).drop 6).take n.toNat = p ∧
    (serializeWith crc t d n p).drop (6 + n.toNat) =
      [(crc ((serializeWith crc t d n p).drop 2 |>.take (4 + n.toNat))).extractLsb' 0 8,
       (crc ((serializeWith crc t d n p).drop 2 |>.take (4 + n.toNat))).extractLsb' 8 8,
       (crc ((serializeWith crc t d n p).drop 2 |>.take (4 + n.toNat))).extractLsb' 16 8,
       (crc ((serializeWith crc t d n p).drop 2 |>.take (4 + n.toNat))).extractLsb' 24 8, 0xDF#8, 0xDE#8] ∧
    (∀ (t' d' : Byte) (n' : BitVec 16) (p' : List Byte), p'.length = n'.toNat →
      serializeWith crc t d n p = serializeWith crc t' d' n' p' → t = t' ∧ d = d' ∧ n = n' ∧ p = p')

/-- R145 item 4 for any checksum function: deserializing a serialized packet accepts it and gives it back. -/
def Obligations.DeserializeInvertsSerialize : Prop :=
  ∀ (crc : List Byte → BitVec 32) (t d : Byte) (n : BitVec 16) (p : List Byte),
    n.toNat ≤ 256 → p.length = n.toNat → (d = 0xAA ∨ d = 0xBB) →
    deserializeWith crc (serializeWith crc t d n p) = .ok ⟨t, d, n, p⟩

/-- Changing one byte of a frame to a different value makes `deserialize` reject it, and which check rejects depends on the
byte as R147 says. The clause of the checksum rests on CRC32 being CRC-32/ISO-HDLC, which detects such a change: general
knowledge by the spec's own mark (notes/assumptions/8). -/
def Obligations.SingleByteCorruptionIsRejected : Prop :=
  ∀ (t d : Byte) (n : BitVec 16) (p : List Byte) (k : Nat) (b : Byte),
    n.toNat ≤ 256 → p.length = n.toNat → (d = 0xAA ∨ d = 0xBB) → k < 12 + n.toNat →
    (serialize t d n p)[k]? ≠ some b →
    ∃ r, deserialize ((serialize t d n p).set k b) = .error r ∧
      (k < 2 → r = .badPreamble) ∧
      (4 ≤ k ∧ k < 6 → r = .badLength ∨ r = .badFrameLength) ∧
      (2 ≤ k ∧ k < 4 ∨ 6 ≤ k ∧ k < 10 + n.toNat → r = .crcMismatch) ∧
      (10 + n.toNat ≤ k → r = .badPostamble)

/-- The check values of the checksum function that R143 names (spec's general knowledge: notes/assumptions/8). -/
def Obligations.Crc32CheckValues : Prop :=
  crc32 [0x31, 0x32, 0x33, 0x34, 0x35, 0x36, 0x37, 0x38, 0x39] = 0xCBF43926#32 ∧ crc32 [] = 0#32 ∧
  serialize 0x60 0xAA 7 [0x48, 0x45, 0x4C, 0x4C, 0x4F, 0x21, 0x0A] =
    [0x7F, 0xFF, 0x60, 0xAA, 0x07, 0x00, 0x48, 0x45, 0x4C, 0x4C, 0x4F, 0x21, 0x0A, 0x09, 0x14, 0x74, 0x92, 0xDF, 0xDE]

/-- R65: the numbers of the statuses and of `tx`, the place of every field of a response word, and that all other bits are
0. -/
def Obligations.ResponseWordFields : Prop :=
  (statusCode .ok = 0 ∧ statusCode .queueFull = 1 ∧ statusCode .payloadTooLarge = 2 ∧ statusCode .empty = 3 ∧
    statusCode .illegalOp = 4) ∧
  (txCode .none = 0 ∧ txCode .accepted = 1 ∧ txCode .busy = 2) ∧
  (txOfAnswer .accepted = .accepted ∧ txOfAnswer .busy = .busy) ∧
  (∀ x : Status, (wordRS x).extractLsb' 0 3 = statusCode x ∧ (wordRS x).extractLsb' 3 45 = 0) ∧
  (∀ c : BitVec 8, (wordRC c).extractLsb' 0 8 = 0 ∧ (wordRC c).extractLsb' 8 8 = c ∧
    (wordRC c).extractLsb' 16 32 = 0) ∧
  (∀ q : TxRequest, (wordRQ q).extractLsb' 0 4 = 0 ∧ (wordRQ q).extractLsb' 4 7 = q.source ∧
    (wordRQ q).getLsbD 11 = q.ackRequired ∧ (wordRQ q).extractLsb' 12 8 = q.typeCode ∧
    (wordRQ q).extractLsb' 20 8 = q.dircode ∧ (wordRQ q).extractLsb' 28 16 = q.payloadLength ∧
    (wordRQ q).extractLsb' 44 4 = 0) ∧
  (∀ r : RunResponse, (wordRR r).extractLsb' 0 4 = 0 ∧ (wordRR r).getLsbD 4 = r.dequeued ∧
    (wordRR r).extractLsb' 5 2 = txCode r.tx ∧ (wordRR r).getLsbD 7 = r.done ∧ (wordRR r).getLsbD 8 = r.dropped ∧
    (wordRR r).extractLsb' 9 39 = 0)

/-- R28: the status view shows copies of the state and the free space of the ring. -/
def Obligations.StatusViewShowsTheState : Prop :=
  ∀ b : Block, b.used.toNat ≤ 1024 →
    (statusView b).fsmState = (if b.fsmState = .pollPending then 0 else 1) ∧
    (statusView b).retryCount = b.retryCount ∧ (statusView b).pendingCount = b.pendingCount ∧
    (statusView b).freeSpace.toNat = 1024 - b.used.toNat ∧
    (statusView b).timerActive = BitVec.ofBool b.timerActive ∧
    ((statusView b).ev.getLsbD 0 = b.evAck ∧ (statusView b).ev.getLsbD 1 = b.evNack ∧
      (statusView b).ev.getLsbD 2 = b.evTimeout) ∧
    (statusView b).sendBusy = BitVec.ofBool b.stsSendBusy

/-- R25: nothing but the block and the transport's answer decides what an operation does and puts out, so nothing that was
put out before does; only the head of the inputs can tell it the answer, and only RUN asks for it. -/
def Obligations.OutputsNeverFeedBack : Prop :=
  ∀ (i : Instr) (s t : State), t.toBlock = s.toBlock →
    (presentedAnswer t = presentedAnswer s ∨ i.opcode ≠ 0x1#4) →
      exec i t = mapNext (fun u => { u with inputs := t.inputs }) (exec i s) ∧ outputOf i t = outputOf i s

/-- No operation's answer, sends or effect depend on a value the spec leaves unspecified, nor on `cur_src` or
`sts_send_busy`: from states that agree on what is read, it answers the same, sends the same, and they agree again. So what
the model keeps in those places (notes/assumptions/5, 9) cannot be told. -/
def Obligations.UnspecifiedValuesAreNeverRead : Prop :=
  ∀ (i : Instr) (s t : State) (reqs : List TxRequest), i.wellFormed = true → QueueHolds s.toBlock reqs →
    AgreeOnWhatIsRead s.toBlock t.toBlock → presentedAnswer t = presentedAnswer s →
    (∃ s' t', exec i s = .next s' ∧ exec i t = .next t' ∧ AgreeOnWhatIsRead s'.toBlock t'.toBlock ∧
      outputOf i t = outputOf i s) ∨
    (∃ r, exec i s = .refused r ∧ exec i t = .refused r)

/-! ### The invariants -/

/-- R16 and R27 hold after every step from a state where they hold. -/
def Obligations.StepKeepsTheInvariants : Prop :=
  ∀ s t : State, Inv s.toBlock → step s = .next t → Inv t.toBlock

/-- R16 and R27 hold right after reset. -/
def Obligations.ResetSatisfiesTheInvariants : Prop :=
  Inv State.reset.toBlock

/-- INIT and `rst` establish R16 and R27 from any state whose ring memory is in canonical form and whose current-payload
register has its 256 bytes, whatever else it holds. -/
def Obligations.InitEstablishesTheInvariants : Prop :=
  ∀ s : State, Shape s.toBlock →
    (∃ t, exec .init s = .next t ∧ Inv t.toBlock) ∧
    (∀ rest, s.inputs = .rst :: rest → ∃ t, step s = .next t ∧ Inv t.toBlock)

/-- Where the invariants hold, no step ends in a fault (the one fault is the model's: notes/assumptions/4). -/
def Obligations.InvariantsRuleOutFaults : Prop :=
  ∀ (s : State) (f : Fault), Inv s.toBlock → step s ≠ .fault f

/-- If INIT or `rst` comes first, no run of any length, whatever is presented, ends in a fault or in the refusal of an
operation for want of initialisation (both stops are the model's: notes/assumptions/4, 7). -/
def Obligations.InitFirstRunsNeverFault : Prop :=
  ∀ (s : State) (k : Nat), Shape s.toBlock → initFirst s.inputs = true →
    (∀ f, Sys2Proof.core.run k s ≠ .fault f) ∧ Sys2Proof.core.run k s ≠ .refused .notInitialised
end

