-- ==== Sys2Proof/Laws/Codec.lean ====
section
/-! SUPPORT. The codec's small lemmas: the shape of a frame (spec/42_codec.md R141) and the CRC register as an injective
function of its byte and of its previous value (R143). -/

namespace Sys2Proof.Machine

@[simp] theorem le16_length (v : BitVec 16) : (le16 v).length = 2 := rfl

@[simp] theorem le32_length (v : BitVec 32) : (le32 v).length = 4 := rfl

/-- Four little-endian bytes joined are the number (R40). -/
theorem le32_join (v : BitVec 32) :
    (v.extractLsb' 24 8 ++ v.extractLsb' 16 8 ++ v.extractLsb' 8 8 ++ v.extractLsb' 0 8 : BitVec 32) = v := by
  ext i hi
  simp only [BitVec.getElem_append, BitVec.getElem_extractLsb']
  split
  · simp [BitVec.getLsbD_eq_getElem hi]
  · split
    · rw [show 8 + (i - 8) = i by omega]; simp [BitVec.getLsbD_eq_getElem hi]
    · split
      · rw [show 16 + (i - 8 - 8) = i by omega]; simp [BitVec.getLsbD_eq_getElem hi]
      · rw [show 24 + (i - 8 - 8 - 8) = i by omega]; simp [BitVec.getLsbD_eq_getElem hi]

/-- The parts of a frame in order (R141). -/
theorem serializeWith_eq (crc : List Byte → BitVec 32) (t d : Byte) (n : BitVec 16) (p : List Byte) :
    serializeWith crc t d n p =
      [0x7F#8, 0xFF#8] ++ ([t, d, n.extractLsb' 0 8, n.extractLsb' 8 8] ++ p)
        ++ le32 (crc ([t, d, n.extractLsb' 0 8, n.extractLsb' 8 8] ++ p)) ++ [0xDF#8, 0xDE#8] := rfl

theorem serializeWith_length (crc : List Byte → BitVec 32) (t d : Byte) (n : BitVec 16) (p : List Byte) :
    (serializeWith crc t d n p).length = 12 + p.length := by
  rw [serializeWith_eq]; simp; omega

/-- One shift loses nothing: bit 31 of the result tells which branch was taken, since the polynomial has bit 31 and a
shifted word has not. -/
theorem crcShift_injective {c c' : BitVec 32} (h : crcShift c = crcShift c') : c = c' := by
  have bits : ∀ (c : BitVec 32) (i : Nat), (crcShift c).getLsbD i =
      ((c.getLsbD (1 + i)) ^^ (c.getLsbD 0 && (0xEDB88320#32).getLsbD i)) := by
    intro c i
    unfold crcShift
    cases h0 : c.getLsbD 0 <;>
      simp only [BitVec.getLsbD_xor, BitVec.getLsbD_ushiftRight, if_true, Bool.false_eq_true, if_false, Bool.true_and,
        Bool.false_and, Bool.xor_false]
  have low : c.getLsbD 0 = c'.getLsbD 0 := by
    have e := congrArg (fun x => x.getLsbD 31) h
    simp only [bits] at e
    have z : ∀ x : BitVec 32, x.getLsbD (1 + 31) = false := fun x => BitVec.getLsbD_of_ge _ _ (by omega)
    rw [z, z] at e
    simpa using e
  apply BitVec.eq_of_getLsbD_eq
  intro i hi
  cases i with
  | zero => exact low
  | succ i =>
    have e := congrArg (fun x => x.getLsbD i) h
    simp only [bits, low] at e
    rw [Nat.add_comm i 1]
    simpa using e

theorem crcShifts_injective (n : Nat) {c c' : BitVec 32} (h : crcShifts n c = crcShifts n c') : c = c' := by
  induction n generalizing c c' with
  | zero => exact h
  | succ n ih => exact crcShift_injective (ih h)

/-- The register after a byte determines the register before it. -/
theorem crcByte_injective_register {c c' : BitVec 32} {b : Byte} (h : crcByte c b = crcByte c' b) : c = c' := by
  have := crcShifts_injective 8 h
  exact (BitVec.xor_left_inj (x := c) (y := c') (b.setWidth 32)).1 this

/-- The register before and after a byte determine the byte. -/
theorem crcByte_injective_byte {c : BitVec 32} {b b' : Byte} (h : crcByte c b = crcByte c b') : b = b' := by
  have := crcShifts_injective 8 h
  have e := (BitVec.xor_right_inj (x := b.setWidth 32) (y := b'.setWidth 32) c).1 this
  have e2 := congrArg (fun x => x.setWidth 8) e
  simpa using e2

theorem crcBytes_append (c : BitVec 32) (l r : List Byte) : crcBytes c (l ++ r) = crcBytes (crcBytes c l) r := by
  induction l generalizing c with
  | nil => rfl
  | cons b l ih => exact ih _

theorem crcBytes_injective_register {c c' : BitVec 32} (l : List Byte) (h : crcBytes c l = crcBytes c' l) : c = c' := by
  induction l generalizing c c' with
  | nil => exact h
  | cons b l ih => exact crcByte_injective_register (ih h)

end Sys2Proof.Machine
end

