-- ==== Sys2Proof/Laws/Decode.lean ====
section
/-! SUPPORT. The fields of a command word written in each format (spec/30_encoding.md R61, R63). -/

namespace Sys2Proof

@[simp] theorem opField_formatN (op : BitVec 4) : opField (formatN op) = op := by
  revert op; decide

@[simp] theorem opField_formatT (t : BitVec 32) (op : BitVec 4) : opField (formatT t op) = op := by
  ext i hi
  simp only [opField, formatT, BitVec.getElem_extractLsb', BitVec.getLsbD_append, Nat.zero_add, hi, if_true,
    BitVec.getLsbD_eq_getElem hi]

@[simp] theorem nowMsField_formatT (t : BitVec 32) (op : BitVec 4) : nowMsField (formatT t op) = t := by
  ext i hi
  have h1 : ¬ (8 + i < 4) := by omega
  have h2 : ¬ (8 + i - 4 < 4) := by omega
  simp only [nowMsField, formatT, BitVec.getElem_extractLsb', BitVec.getLsbD_append, h1, h2, if_false]
  rw [show 8 + i - 4 - 4 = i by omega, BitVec.getLsbD_eq_getElem hi]

section
variable (a : BitVec 7) (b : Bool) (c : Byte) (d : Direction) (n : BitVec 16) (op : BitVec 4)

@[simp] theorem opField_formatW : opField (formatW a b c d n op) = op := by
  ext i hi
  simp only [opField, formatW, BitVec.getElem_extractLsb', BitVec.getLsbD_append, Nat.zero_add, hi, if_true,
    BitVec.getLsbD_eq_getElem hi]

@[simp] theorem srcIdField_formatW : srcIdField (formatW a b c d n op) = a := by
  ext i hi
  have h1 : ¬ (4 + i < 4) := by omega
  have h2 : 4 + i - 4 = i := by omega
  simp only [srcIdField, formatW, BitVec.getElem_extractLsb', BitVec.getLsbD_append, h1, h2, hi, if_false, if_true,
    BitVec.getLsbD_eq_getElem hi]

@[simp] theorem ackRequiredField_formatW : ackRequiredField (formatW a b c d n op) = b := by
  simp only [ackRequiredField, formatW, BitVec.getLsbD_append]
  cases b <;> rfl

@[simp] theorem typeCodeField_formatW : typeCodeField (formatW a b c d n op) = c := by
  ext i hi
  have h1 : ¬ (12 + i < 4) := by omega
  have h2 : ¬ (12 + i - 4 < 7) := by omega
  have h3 : ¬ (12 + i - 4 - 7 < 1) := by omega
  have h4 : 12 + i - 4 - 7 - 1 = i := by omega
  simp only [typeCodeField, formatW, BitVec.getElem_extractLsb', BitVec.getLsbD_append, h1, h2, h3, h4, hi, if_false,
    if_true, BitVec.getLsbD_eq_getElem hi]

@[simp] theorem dirField_formatW : dirField (formatW a b c d n op) = d := by
  simp only [dirField, formatW, BitVec.getLsbD_append]
  cases d <;> rfl

@[simp] theorem payloadLengthField_formatW : payloadLengthField (formatW a b c d n op) = n := by
  ext i hi
  have h1 : ¬ (24 + i < 4) := by omega
  have h2 : ¬ (24 + i - 4 < 7) := by omega
  have h3 : ¬ (24 + i - 4 - 7 < 1) := by omega
  have h4 : ¬ (24 + i - 4 - 7 - 1 < 8) := by omega
  have h5 : ¬ (24 + i - 4 - 7 - 1 - 8 < 1) := by omega
  have h6 : ¬ (24 + i - 4 - 7 - 1 - 8 - 1 < 3) := by omega
  have h7 : 24 + i - 4 - 7 - 1 - 8 - 1 - 3 = i := by omega
  simp only [payloadLengthField, formatW, BitVec.getElem_extractLsb', BitVec.getLsbD_append, h1, h2, h3, h4, h5, h6, h7,
    if_false, BitVec.getLsbD_eq_getElem hi]

end

/-- Everything format W can decode to (R61, R68). -/
theorem decodeWrite_cases (w : CommandWord) (bytes : List Byte) :
    (256 < (payloadLengthField w).toNat ∧ decodeWrite w bytes =
      .ok (.writeRequest (srcIdField w) (ackRequiredField w) (typeCodeField w) (dirField w) (payloadLengthField w) [])) ∨
    ((payloadLengthField w).toNat ≤ 256 ∧ bytes.length < (payloadLengthField w).toNat ∧
      decodeWrite w bytes = .error .payloadMissing) ∨
    ((payloadLengthField w).toNat ≤ 256 ∧ (payloadLengthField w).toNat ≤ bytes.length ∧ decodeWrite w bytes =
      .ok (.writeRequest (srcIdField w) (ackRequiredField w) (typeCodeField w) (dirField w) (payloadLengthField w)
        (bytes.take (payloadLengthField w).toNat))) := by
  unfold decodeWrite
  by_cases h1 : Config.maxPayloadSize < (payloadLengthField w).toNat
  · exact .inl ⟨h1, if_pos h1⟩
  · have h1' : (payloadLengthField w).toNat ≤ 256 := Nat.le_of_not_lt h1
    by_cases h2 : bytes.length < (payloadLengthField w).toNat
    · exact .inr (.inl ⟨h1', h2, by simp only [h1, h2, if_false, if_true]⟩)
    · exact .inr (.inr ⟨h1', Nat.le_of_not_lt h2, by simp only [h1, h2, if_false]⟩)

end Sys2Proof
end

