-- ==== Sys2Proof/Laws/Environment.lean ====
section
/-! SUPPORT. What the duties of the environment give (spec/60_exceptions.md R178, spec/70_reset_and_hazards.md R199). -/

namespace Sys2Proof.Machine

/-- Duty 1 is what a finite run needs of it: whatever prefix is presented begins with INIT or `rst`. -/
theorem initFirst_presentedFirst {presented : Nat → Input} (h : dutyInitFirst presented) (k : Nat) :
    initFirst (presentedFirst presented k) = true := by
  cases k with
  | zero => rfl
  | succ k =>
    rw [presentedFirst, List.range_succ_eq_map, List.map_cons]
    unfold dutyInitFirst at h
    cases hx : presented 0 with
    | rst => rfl
    | command w p a => rw [hx] at h; exact h

/-- Duty 4: the difference of two time operands mod 2^32 is the time that has passed on the clock, as long as that is less
than 2^32 ms (R199). -/
theorem elapsed_of_oneMonotonicClock {presented : Nat → Input} {clock : Nat → Nat}
    (h : dutyOneMonotonicClock presented clock) {m n : Nat} (hmn : m ≤ n) (hlt : clock n - clock m < 2 ^ 32)
    {t0 t1 : BitVec 32} (h0 : operationOf (presented m) = some (.run t0))
    (h1 : operationOf (presented n) = some (.tickTimers t1)) : (t1 - t0).toNat = clock n - clock m := by
  have hc := h.1 m n hmn
  rw [h.2 m t0 (.inl h0), h.2 n t1 (.inr h1), BitVec.toNat_sub, BitVec.toNat_ofNat, BitVec.toNat_ofNat]
  omega

end Sys2Proof.Machine
end

