-- ==== Sys2Proof/Laws/Memory.lean ====
section
/-! SUPPORT. The laws of the ring's memory: reading back what was written, every other byte unchanged, the canonical form
kept, and the two primitives RingRead and RingWrite byte by byte (spec/20_memory.md R44, R45). -/

namespace Sys2Proof.Machine

/-! ### One byte -/

@[simp] theorem Ring.read_nil (a : Nat) : Ring.read [] a = none := rfl

theorem Ring.read_write_same (m : Ring) (a : Nat) (v : Byte) : Ring.read (Ring.write m a v) a = some v := by
  induction m with
  | nil => simp [Ring.write, Ring.read]
  | cons e rest ih =>
    obtain ⟨k, b⟩ := e
    simp only [Ring.write]
    split_ifs with h1 h2
    · simp [Ring.read]
    · simp [Ring.read]
    · simp [Ring.read, Ne.symm h2, ih]

theorem Ring.read_write_other (m : Ring) {a x : Nat} (v : Byte) (h : x ≠ a) :
    Ring.read (Ring.write m a v) x = Ring.read m x := by
  induction m with
  | nil => simp [Ring.write, Ring.read, Ne.symm h]
  | cons e rest ih =>
    obtain ⟨k, b⟩ := e
    simp only [Ring.write]
    split_ifs with h1 h2
    · simp [Ring.read, Ne.symm h]
    · subst h2; simp [Ring.read, Ne.symm h]
    · simp [Ring.read, ih]

/-- Reading one byte after one write, in one line. -/
theorem Ring.read_write (m : Ring) (a x : Nat) (v : Byte) :
    Ring.read (Ring.write m a v) x = if x = a then some v else Ring.read m x := by
  split_ifs with h
  · subst h; exact Ring.read_write_same m x v
  · exact Ring.read_write_other m v h

/-! ### The canonical form -/

theorem Ring.wfFrom_mono {m : Ring} {lo lo' : Nat} (h : lo' ≤ lo) (hm : Ring.wfFrom lo m = true) :
    Ring.wfFrom lo' m = true := by
  cases m with
  | nil => rfl
  | cons e rest =>
    simp only [Ring.wfFrom, Bool.and_eq_true, decide_eq_true_eq] at hm ⊢
    exact ⟨⟨Nat.le_trans h hm.1.1, hm.1.2⟩, hm.2⟩

theorem Ring.wfFrom_write {m : Ring} {lo a : Nat} (v : Byte) (hlo : lo ≤ a) (ha : a < Config.ringCapacity)
    (hm : Ring.wfFrom lo m = true) : Ring.wfFrom lo (Ring.write m a v) = true := by
  induction m generalizing lo with
  | nil => simp [Ring.write, Ring.wfFrom, hlo, ha]
  | cons e rest ih =>
    obtain ⟨k, b⟩ := e
    simp only [Ring.wfFrom, Bool.and_eq_true, decide_eq_true_eq] at hm
    obtain ⟨⟨h1, h2⟩, h3⟩ := hm
    simp only [Ring.write]
    split_ifs with c1 c2
    · simp only [Ring.wfFrom, Bool.and_eq_true, decide_eq_true_eq]
      exact ⟨⟨hlo, ha⟩, ⟨by omega, h2⟩, h3⟩
    · subst c2
      simp [Ring.wfFrom, hlo, ha, h3]
    · simp only [Ring.wfFrom, Bool.and_eq_true, decide_eq_true_eq]
      exact ⟨⟨h1, h2⟩, ih (by omega) h3⟩

/-- Storing one byte at a ring index keeps the canonical form. -/
theorem Memory.wf_write {m : Ring} {a : Nat} (v : Byte) (ha : a < Config.ringCapacity) (hm : Memory.wf m = true) :
    Memory.wf (Ring.write m a v) = true :=
  Ring.wfFrom_write v (Nat.zero_le a) ha hm

/-- RingWrite keeps the canonical form. -/
theorem Memory.wf_ringWrite {m : Ring} (a : BitVec 10) (v : List Byte) (hm : Memory.wf m = true) :
    Memory.wf (ringWrite m a v) = true := by
  induction v generalizing m a with
  | nil => exact hm
  | cons b bs ih => exact ih (a + 1#10) (Memory.wf_write b (by have := a.isLt; simp [Config.ringCapacity]; omega) hm)

@[simp] theorem Memory.wf_reset : Memory.wf State.reset.buf = true := rfl

theorem Ring.read_of_wfFrom_lt {m : Ring} {lo a : Nat} (h : a < lo) (hm : Ring.wfFrom lo m = true) :
    Ring.read m a = none := by
  induction m generalizing lo with
  | nil => rfl
  | cons e rest ih =>
    obtain ⟨k, b⟩ := e
    simp only [Ring.wfFrom, Bool.and_eq_true, decide_eq_true_eq] at hm
    have hk : k ≠ a := by omega
    simp only [Ring.read, hk, if_false]
    exact ih (lo := k + 1) (by omega) hm.2

/-- No index outside the ring is listed. -/
theorem Ring.read_outside {m : Ring} {a : Nat} (h : Config.ringCapacity ≤ a) (hm : Memory.wf m = true) :
    Ring.read m a = none := by
  have key : ∀ (m : Ring) (lo : Nat), Ring.wfFrom lo m = true → Ring.read m a = none := by
    intro m
    induction m with
    | nil => intros; rfl
    | cons e rest ih =>
      intro lo hm
      obtain ⟨k, b⟩ := e
      simp only [Ring.wfFrom, Bool.and_eq_true, decide_eq_true_eq] at hm
      have hk : k ≠ a := by omega
      simp only [Ring.read, hk, if_false]
      exact ih _ hm.2
  exact key m 0 hm

/-- Two memories in canonical form that read alike at every index are the same data. -/
theorem Ring.ext_of_wfFrom {m m' : Ring} {lo : Nat} (hm : Ring.wfFrom lo m = true) (hm' : Ring.wfFrom lo m' = true)
    (h : ∀ a, Ring.read m a = Ring.read m' a) : m = m' := by
  induction m generalizing m' lo with
  | nil =>
    cases m' with
    | nil => rfl
    | cons e rest => have := h e.1; simp [Ring.read] at this
  | cons e rest ih =>
    obtain ⟨k, b⟩ := e
    cases m' with
    | nil => have := h k; simp [Ring.read] at this
    | cons e' rest' =>
      obtain ⟨k', b'⟩ := e'
      simp only [Ring.wfFrom, Bool.and_eq_true, decide_eq_true_eq] at hm hm'
      have hk : k = k' := by
        rcases Nat.lt_trichotomy k k' with c | c | c
        · have := h k
          rw [Ring.read, Ring.read, if_pos rfl, if_neg (by omega : k' ≠ k),
            Ring.read_of_wfFrom_lt (by omega) hm'.2] at this
          cases this
        · exact c
        · have := h k'
          rw [Ring.read, Ring.read, if_pos rfl, if_neg (by omega : k ≠ k'),
            Ring.read_of_wfFrom_lt (by omega) hm.2] at this
          cases this
      subst hk
      have hb : b = b' := by simpa [Ring.read] using h k
      subst hb
      congr 1
      refine ih hm.2 hm'.2 fun a => ?_
      by_cases c : k = a
      · subst c
        rw [Ring.read_of_wfFrom_lt (Nat.lt_succ_self _) hm.2, Ring.read_of_wfFrom_lt (Nat.lt_succ_self _) hm'.2]
      · simpa [Ring.read, c] using h a

/-! ### RingRead and RingWrite -/

/-- The ring index `k` places after a cursor (R44). -/
theorem ringIndex_add (a : BitVec 10) (k : Nat) : (a + BitVec.ofNat 10 k).toNat = (a.toNat + k) % 1024 := by
  simp [BitVec.toNat_add]

theorem ringIndex_succ (a : BitVec 10) (k : Nat) : a + 1#10 + BitVec.ofNat 10 k = a + BitVec.ofNat 10 (k + 1) := by
  apply BitVec.eq_of_toNat_eq
  simp [BitVec.toNat_add]
  omega

@[simp] theorem ringRead_zero (m : Ring) (a : BitVec 10) : ringRead m a 0 = some [] := rfl

@[simp] theorem ringWrite_nil (m : Ring) (a : BitVec 10) : ringWrite m a [] = m := rfl

theorem ringRead_succ_eq_some_iff (m : Ring) (a : BitVec 10) (n : Nat) (b : Byte) (bs : List Byte) :
    ringRead m a (n + 1) = some (b :: bs) ↔ Ring.read m a.toNat = some b ∧ ringRead m (a + 1#10) n = some bs := by
  simp only [ringRead]
  split
  · rename_i b' bs' h1 h2
    rw [h1, h2]; simp
  · rename_i hne
    constructor
    · intro h; cases h
    · rintro ⟨h1, h2⟩; exact absurd h2 (fun h2 => hne b bs h1 h2)

/-- What RingRead answers: as many bytes as asked for, each the byte at its index; and it answers exactly when all of
them have been written. -/
theorem ringRead_eq_some_iff (m : Ring) (a : BitVec 10) (n : Nat) (v : List Byte) :
    ringRead m a n = some v ↔
      v.length = n ∧ ∀ k, (hk : k < v.length) → Ring.read m (a + BitVec.ofNat 10 k).toNat = some v[k] := by
  induction n generalizing a v with
  | zero =>
    cases v with
    | nil => simp
    | cons b bs => simp
  | succ n ih =>
    cases v with
    | nil =>
      simp only [List.length_nil, Nat.right_eq_add, Nat.add_eq_zero_iff]
      constructor
      · intro h; simp only [ringRead] at h; split at h <;> simp at h
      · rintro ⟨h, -⟩; simp at h
    | cons b bs =>
      rw [ringRead_succ_eq_some_iff, ih]
      constructor
      · rintro ⟨h0, hl, hk⟩
        refine ⟨by simp [hl], fun k hlt => ?_⟩
        cases k with
        | zero => simpa using h0
        | succ k => rw [← ringIndex_succ]; exact hk k (by simpa using hlt)
      · rintro ⟨hl, hk⟩
        refine ⟨by have := hk 0 (by simp); simp only [List.getElem_cons_zero] at this; simpa using this, by simpa using hl, fun k hlt => ?_⟩
        rw [ringIndex_succ]; exact hk (k + 1) (by simpa using hlt)

theorem ringRead_length {m : Ring} {a : BitVec 10} {n : Nat} {v : List Byte} (h : ringRead m a n = some v) :
    v.length = n := ((ringRead_eq_some_iff m a n v).1 h).1

/-- Reading two stretches one after the other is reading one. -/
theorem ringRead_append (m : Ring) (a : BitVec 10) (n k : Nat) (v w : List Byte) (hv : v.length = n) :
    ringRead m a (n + k) = some (v ++ w) ↔
      ringRead m a n = some v ∧ ringRead m (a + BitVec.ofNat 10 n) k = some w := by
  induction n generalizing a v with
  | zero =>
    obtain rfl : v = [] := by simpa using hv
    simp
  | succ n ih =>
    cases v with
    | nil => simp at hv
    | cons b bs =>
      have hb : bs.length = n := by simpa using hv
      have e : n + 1 + k = (n + k) + 1 := by omega
      rw [e, List.cons_append, ringRead_succ_eq_some_iff, ringRead_succ_eq_some_iff, ih (a + 1#10) bs hb, ringIndex_succ, and_assoc]

/-- Where an index lies relative to a cursor. -/
def ringOffset (a : BitVec 10) (x : Nat) : Nat := (x + (1024 - a.toNat)) % 1024

/-- RingWrite byte by byte (R45): the byte at offset `k` is `v[k]`, every other byte is as before. -/
theorem ringWrite_read (m : Ring) (a : BitVec 10) (v : List Byte) (hv : v.length ≤ 1024) (x : Nat) :
    Ring.read (ringWrite m a v) x =
      if h : x < 1024 ∧ ringOffset a x < v.length then some (v[ringOffset a x]'h.2) else Ring.read m x := by
  induction v generalizing m a with
  | nil => simp
  | cons b bs ih =>
    have ha := a.isLt
    have hl : bs.length ≤ 1024 := by simp at hv; omega
    have hl' : bs.length < 1024 := by simp at hv; omega
    rw [ringWrite, ih _ _ hl]
    have h1 : (a + 1#10).toNat = (a.toNat + 1) % 1024 := by simp [BitVec.toNat_add]
    by_cases hx : x < 1024
    · by_cases h0 : x = a.toNat
      · have o0 : ringOffset a x = 0 := by simp only [ringOffset]; omega
        have o1 : ringOffset (a + 1#10) x = 1023 := by simp only [ringOffset, h1]; omega
        have n1 : ¬ (x < 1024 ∧ ringOffset (a + 1#10) x < bs.length) := by omega
        rw [dif_neg n1, dif_pos ⟨hx, by simp [o0]⟩]
        simp only [o0, List.getElem_cons_zero]
        rw [h0, Ring.read_write_same]
      · have o1 : ringOffset a x = ringOffset (a + 1#10) x + 1 := by simp only [ringOffset, h1]; omega
        by_cases c : ringOffset (a + 1#10) x < bs.length
        · rw [dif_pos ⟨hx, c⟩, dif_pos ⟨hx, by rw [o1, List.length_cons]; omega⟩]
          simp only [o1, List.getElem_cons_succ]
        · rw [dif_neg (by omega), dif_neg (by rw [o1, List.length_cons]; omega), Ring.read_write_other _ _ h0]
    · have : x ≠ a.toNat := by omega
      rw [dif_neg (by omega), dif_neg (by omega), Ring.read_write_other _ _ this]

/-- Offsets and indices. -/
theorem ringOffset_add (a c : BitVec 10) (k j : Nat) (hc : c = a + BitVec.ofNat 10 j) (hj : j ≤ 1024) :
    ringOffset c (a + BitVec.ofNat 10 k).toNat = (k + (1024 - j)) % 1024 := by
  subst hc
  have ha := a.isLt
  simp only [ringOffset, ringIndex_add]
  omega

/-- What was written is read back (R44, R45). -/
theorem ringRead_ringWrite_same (m : Ring) (a : BitVec 10) (v : List Byte) (hv : v.length ≤ 1024) :
    ringRead (ringWrite m a v) a v.length = some v := by
  rw [ringRead_eq_some_iff]
  refine ⟨rfl, fun k hk => ?_⟩
  have ho : ringOffset a (a + BitVec.ofNat 10 k).toNat = k := by
    rw [ringOffset_add a a k 0 (by simp) (by omega)]; omega
  rw [ringWrite_read m a v hv]
  rw [dif_pos ⟨by simp only [ringIndex_add]; omega, by rw [ho]; exact hk⟩]
  simp only [ho]

/-- A stretch that the written bytes do not reach reads as before. -/
theorem ringRead_ringWrite_apart (m : Ring) (a : BitVec 10) (n : Nat) (v : List Byte) (h : n + v.length ≤ 1024) :
    ringRead (ringWrite m (a + BitVec.ofNat 10 n) v) a n = ringRead m a n := by
  have key : ∀ k, k < n → Ring.read (ringWrite m (a + BitVec.ofNat 10 n) v) (a + BitVec.ofNat 10 k).toNat =
      Ring.read m (a + BitVec.ofNat 10 k).toNat := by
    intro k hk
    rw [ringWrite_read _ _ _ (by omega), dif_neg]
    rw [ringOffset_add a _ k n rfl (by omega)]
    omega
  have ext : ∀ w, ringRead (ringWrite m (a + BitVec.ofNat 10 n) v) a n = some w ↔ ringRead m a n = some w := by
    intro w
    rw [ringRead_eq_some_iff, ringRead_eq_some_iff]
    constructor
    · rintro ⟨hl, hk⟩; exact ⟨hl, fun k hlt => by rw [← key k (by omega)]; exact hk k hlt⟩
    · rintro ⟨hl, hk⟩; exact ⟨hl, fun k hlt => by rw [key k (by omega)]; exact hk k hlt⟩
  exact Option.ext ext

end Sys2Proof.Machine
end

