-- ==== Sys2Proof/Laws/State.lean ====
section
/-! SUPPORT. One lemma per field per update: what each named update of the block leaves in each register, and what each
update of the state leaves of the block and of the inputs. -/

namespace Sys2Proof.Machine

/-! ### raiseAck: raise AckReceived -/

@[simp] theorem raiseAck_buf (b : Block) :
    (raiseAck b).buf = b.buf := rfl
@[simp] theorem raiseAck_rd (b : Block) :
    (raiseAck b).rd = b.rd := rfl
@[simp] theorem raiseAck_wr (b : Block) :
    (raiseAck b).wr = b.wr := rfl
@[simp] theorem raiseAck_used (b : Block) :
    (raiseAck b).used = b.used := rfl
@[simp] theorem raiseAck_pendingCount (b : Block) :
    (raiseAck b).pendingCount = b.pendingCount := rfl
@[simp] theorem raiseAck_fsmState (b : Block) :
    (raiseAck b).fsmState = b.fsmState := rfl
@[simp] theorem raiseAck_retryCount (b : Block) :
    (raiseAck b).retryCount = b.retryCount := rfl
@[simp] theorem raiseAck_curSrc (b : Block) :
    (raiseAck b).curSrc = b.curSrc := rfl
@[simp] theorem raiseAck_curAck (b : Block) :
    (raiseAck b).curAck = b.curAck := rfl
@[simp] theorem raiseAck_curType (b : Block) :
    (raiseAck b).curType = b.curType := rfl
@[simp] theorem raiseAck_curDircode (b : Block) :
    (raiseAck b).curDircode = b.curDircode := rfl
@[simp] theorem raiseAck_curLen (b : Block) :
    (raiseAck b).curLen = b.curLen := rfl
@[simp] theorem raiseAck_curPayload (b : Block) :
    (raiseAck b).curPayload = b.curPayload := rfl
@[simp] theorem raiseAck_evAck (b : Block) :
    (raiseAck b).evAck = true := rfl
@[simp] theorem raiseAck_evNack (b : Block) :
    (raiseAck b).evNack = b.evNack := rfl
@[simp] theorem raiseAck_evTimeout (b : Block) :
    (raiseAck b).evTimeout = b.evTimeout := rfl
@[simp] theorem raiseAck_timerActive (b : Block) :
    (raiseAck b).timerActive = b.timerActive := rfl
@[simp] theorem raiseAck_timerStart (b : Block) :
    (raiseAck b).timerStart = b.timerStart := rfl
@[simp] theorem raiseAck_stsSendBusy (b : Block) :
    (raiseAck b).stsSendBusy = b.stsSendBusy := rfl
@[simp] theorem raiseAck_initialised (b : Block) :
    (raiseAck b).initialised = b.initialised := rfl

/-! ### raiseNack: raise NackReceived -/

@[simp] theorem raiseNack_buf (b : Block) :
    (raiseNack b).buf = b.buf := rfl
@[simp] theorem raiseNack_rd (b : Block) :
    (raiseNack b).rd = b.rd := rfl
@[simp] theorem raiseNack_wr (b : Block) :
    (raiseNack b).wr = b.wr := rfl
@[simp] theorem raiseNack_used (b : Block) :
    (raiseNack b).used = b.used := rfl
@[simp] theorem raiseNack_pendingCount (b : Block) :
    (raiseNack b).pendingCount = b.pendingCount := rfl
@[simp] theorem raiseNack_fsmState (b : Block) :
    (raiseNack b).fsmState = b.fsmState := rfl
@[simp] theorem raiseNack_retryCount (b : Block) :
    (raiseNack b).retryCount = b.retryCount := rfl
@[simp] theorem raiseNack_curSrc (b : Block) :
    (raiseNack b).curSrc = b.curSrc := rfl
@[simp] theorem raiseNack_curAck (b : Block) :
    (raiseNack b).curAck = b.curAck := rfl
@[simp] theorem raiseNack_curType (b : Block) :
    (raiseNack b).curType = b.curType := rfl
@[simp] theorem raiseNack_curDircode (b : Block) :
    (raiseNack b).curDircode = b.curDircode := rfl
@[simp] theorem raiseNack_curLen (b : Block) :
    (raiseNack b).curLen = b.curLen := rfl
@[simp] theorem raiseNack_curPayload (b : Block) :
    (raiseNack b).curPayload = b.curPayload := rfl
@[simp] theorem raiseNack_evAck (b : Block) :
    (raiseNack b).evAck = b.evAck := rfl
@[simp] theorem raiseNack_evNack (b : Block) :
    (raiseNack b).evNack = true := rfl
@[simp] theorem raiseNack_evTimeout (b : Block) :
    (raiseNack b).evTimeout = b.evTimeout := rfl
@[simp] theorem raiseNack_timerActive (b : Block) :
    (raiseNack b).timerActive = b.timerActive := rfl
@[simp] theorem raiseNack_timerStart (b : Block) :
    (raiseNack b).timerStart = b.timerStart := rfl
@[simp] theorem raiseNack_stsSendBusy (b : Block) :
    (raiseNack b).stsSendBusy = b.stsSendBusy := rfl
@[simp] theorem raiseNack_initialised (b : Block) :
    (raiseNack b).initialised = b.initialised := rfl

/-! ### clearEvents: clear all pending events -/

@[simp] theorem clearEvents_buf (b : Block) :
    (clearEvents b).buf = b.buf := rfl
@[simp] theorem clearEvents_rd (b : Block) :
    (clearEvents b).rd = b.rd := rfl
@[simp] theorem clearEvents_wr (b : Block) :
    (clearEvents b).wr = b.wr := rfl
@[simp] theorem clearEvents_used (b : Block) :
    (clearEvents b).used = b.used := rfl
@[simp] theorem clearEvents_pendingCount (b : Block) :
    (clearEvents b).pendingCount = b.pendingCount := rfl
@[simp] theorem clearEvents_fsmState (b : Block) :
    (clearEvents b).fsmState = b.fsmState := rfl
@[simp] theorem clearEvents_retryCount (b : Block) :
    (clearEvents b).retryCount = b.retryCount := rfl
@[simp] theorem clearEvents_curSrc (b : Block) :
    (clearEvents b).curSrc = b.curSrc := rfl
@[simp] theorem clearEvents_curAck (b : Block) :
    (clearEvents b).curAck = b.curAck := rfl
@[simp] theorem clearEvents_curType (b : Block) :
    (clearEvents b).curType = b.curType := rfl
@[simp] theorem clearEvents_curDircode (b : Block) :
    (clearEvents b).curDircode = b.curDircode := rfl
@[simp] theorem clearEvents_curLen (b : Block) :
    (clearEvents b).curLen = b.curLen := rfl
@[simp] theorem clearEvents_curPayload (b : Block) :
    (clearEvents b).curPayload = b.curPayload := rfl
@[simp] theorem clearEvents_evAck (b : Block) :
    (clearEvents b).evAck = false := rfl
@[simp] theorem clearEvents_evNack (b : Block) :
    (clearEvents b).evNack = false := rfl
@[simp] theorem clearEvents_evTimeout (b : Block) :
    (clearEvents b).evTimeout = false := rfl
@[simp] theorem clearEvents_timerActive (b : Block) :
    (clearEvents b).timerActive = b.timerActive := rfl
@[simp] theorem clearEvents_timerStart (b : Block) :
    (clearEvents b).timerStart = b.timerStart := rfl
@[simp] theorem clearEvents_stsSendBusy (b : Block) :
    (clearEvents b).stsSendBusy = b.stsSendBusy := rfl
@[simp] theorem clearEvents_initialised (b : Block) :
    (clearEvents b).initialised = b.initialised := rfl

/-! ### stopTimer: stop the timer -/

@[simp] theorem stopTimer_buf (b : Block) :
    (stopTimer b).buf = b.buf := rfl
@[simp] theorem stopTimer_rd (b : Block) :
    (stopTimer b).rd = b.rd := rfl
@[simp] theorem stopTimer_wr (b : Block) :
    (stopTimer b).wr = b.wr := rfl
@[simp] theorem stopTimer_used (b : Block) :
    (stopTimer b).used = b.used := rfl
@[simp] theorem stopTimer_pendingCount (b : Block) :
    (stopTimer b).pendingCount = b.pendingCount := rfl
@[simp] theorem stopTimer_fsmState (b : Block) :
    (stopTimer b).fsmState = b.fsmState := rfl
@[simp] theorem stopTimer_retryCount (b : Block) :
    (stopTimer b).retryCount = b.retryCount := rfl
@[simp] theorem stopTimer_curSrc (b : Block) :
    (stopTimer b).curSrc = b.curSrc := rfl
@[simp] theorem stopTimer_curAck (b : Block) :
    (stopTimer b).curAck = b.curAck := rfl
@[simp] theorem stopTimer_curType (b : Block) :
    (stopTimer b).curType = b.curType := rfl
@[simp] theorem stopTimer_curDircode (b : Block) :
    (stopTimer b).curDircode = b.curDircode := rfl
@[simp] theorem stopTimer_curLen (b : Block) :
    (stopTimer b).curLen = b.curLen := rfl
@[simp] theorem stopTimer_curPayload (b : Block) :
    (stopTimer b).curPayload = b.curPayload := rfl
@[simp] theorem stopTimer_evAck (b : Block) :
    (stopTimer b).evAck = b.evAck := rfl
@[simp] theorem stopTimer_evNack (b : Block) :
    (stopTimer b).evNack = b.evNack := rfl
@[simp] theorem stopTimer_evTimeout (b : Block) :
    (stopTimer b).evTimeout = b.evTimeout := rfl
@[simp] theorem stopTimer_timerActive (b : Block) :
    (stopTimer b).timerActive = false := rfl
@[simp] theorem stopTimer_timerStart (b : Block) :
    (stopTimer b).timerStart = b.timerStart := rfl
@[simp] theorem stopTimer_stsSendBusy (b : Block) :
    (stopTimer b).stsSendBusy = b.stsSendBusy := rfl
@[simp] theorem stopTimer_initialised (b : Block) :
    (stopTimer b).initialised = b.initialised := rfl

/-! ### startTimer: start the timer -/

@[simp] theorem startTimer_buf (t : BitVec 32) (b : Block) :
    (startTimer t b).buf = b.buf := rfl
@[simp] theorem startTimer_rd (t : BitVec 32) (b : Block) :
    (startTimer t b).rd = b.rd := rfl
@[simp] theorem startTimer_wr (t : BitVec 32) (b : Block) :
    (startTimer t b).wr = b.wr := rfl
@[simp] theorem startTimer_used (t : BitVec 32) (b : Block) :
    (startTimer t b).used = b.used := rfl
@[simp] theorem startTimer_pendingCount (t : BitVec 32) (b : Block) :
    (startTimer t b).pendingCount = b.pendingCount := rfl
@[simp] theorem startTimer_fsmState (t : BitVec 32) (b : Block) :
    (startTimer t b).fsmState = b.fsmState := rfl
@[simp] theorem startTimer_retryCount (t : BitVec 32) (b : Block) :
    (startTimer t b).retryCount = b.retryCount := rfl
@[simp] theorem startTimer_curSrc (t : BitVec 32) (b : Block) :
    (startTimer t b).curSrc = b.curSrc := rfl
@[simp] theorem startTimer_curAck (t : BitVec 32) (b : Block) :
    (startTimer t b).curAck = b.curAck := rfl
@[simp] theorem startTimer_curType (t : BitVec 32) (b : Block) :
    (startTimer t b).curType = b.curType := rfl
@[simp] theorem startTimer_curDircode (t : BitVec 32) (b : Block) :
    (startTimer t b).curDircode = b.curDircode := rfl
@[simp] theorem startTimer_curLen (t : BitVec 32) (b : Block) :
    (startTimer t b).curLen = b.curLen := rfl
@[simp] theorem startTimer_curPayload (t : BitVec 32) (b : Block) :
    (startTimer t b).curPayload = b.curPayload := rfl
@[simp] theorem startTimer_evAck (t : BitVec 32) (b : Block) :
    (startTimer t b).evAck = b.evAck := rfl
@[simp] theorem startTimer_evNack (t : BitVec 32) (b : Block) :
    (startTimer t b).evNack = b.evNack := rfl
@[simp] theorem startTimer_evTimeout (t : BitVec 32) (b : Block) :
    (startTimer t b).evTimeout = b.evTimeout := rfl
@[simp] theorem startTimer_timerActive (t : BitVec 32) (b : Block) :
    (startTimer t b).timerActive = true := rfl
@[simp] theorem startTimer_timerStart (t : BitVec 32) (b : Block) :
    (startTimer t b).timerStart = t := rfl
@[simp] theorem startTimer_stsSendBusy (t : BitVec 32) (b : Block) :
    (startTimer t b).stsSendBusy = b.stsSendBusy := rfl
@[simp] theorem startTimer_initialised (t : BitVec 32) (b : Block) :
    (startTimer t b).initialised = b.initialised := rfl

/-! ### fireTimeout: AckTimeout fires -/

@[simp] theorem fireTimeout_buf (b : Block) :
    (fireTimeout b).buf = b.buf := rfl
@[simp] theorem fireTimeout_rd (b : Block) :
    (fireTimeout b).rd = b.rd := rfl
@[simp] theorem fireTimeout_wr (b : Block) :
    (fireTimeout b).wr = b.wr := rfl
@[simp] theorem fireTimeout_used (b : Block) :
    (fireTimeout b).used = b.used := rfl
@[simp] theorem fireTimeout_pendingCount (b : Block) :
    (fireTimeout b).pendingCount = b.pendingCount := rfl
@[simp] theorem fireTimeout_fsmState (b : Block) :
    (fireTimeout b).fsmState = b.fsmState := rfl
@[simp] theorem fireTimeout_retryCount (b : Block) :
    (fireTimeout b).retryCount = b.retryCount := rfl
@[simp] theorem fireTimeout_curSrc (b : Block) :
    (fireTimeout b).curSrc = b.curSrc := rfl
@[simp] theorem fireTimeout_curAck (b : Block) :
    (fireTimeout b).curAck = b.curAck := rfl
@[simp] theorem fireTimeout_curType (b : Block) :
    (fireTimeout b).curType = b.curType := rfl
@[simp] theorem fireTimeout_curDircode (b : Block) :
    (fireTimeout b).curDircode = b.curDircode := rfl
@[simp] theorem fireTimeout_curLen (b : Block) :
    (fireTimeout b).curLen = b.curLen := rfl
@[simp] theorem fireTimeout_curPayload (b : Block) :
    (fireTimeout b).curPayload = b.curPayload := rfl
@[simp] theorem fireTimeout_evAck (b : Block) :
    (fireTimeout b).evAck = b.evAck := rfl
@[simp] theorem fireTimeout_evNack (b : Block) :
    (fireTimeout b).evNack = b.evNack := rfl
@[simp] theorem fireTimeout_evTimeout (b : Block) :
    (fireTimeout b).evTimeout = true := rfl
@[simp] theorem fireTimeout_timerActive (b : Block) :
    (fireTimeout b).timerActive = false := rfl
@[simp] theorem fireTimeout_timerStart (b : Block) :
    (fireTimeout b).timerStart = b.timerStart := rfl
@[simp] theorem fireTimeout_stsSendBusy (b : Block) :
    (fireTimeout b).stsSendBusy = b.stsSendBusy := rfl
@[simp] theorem fireTimeout_initialised (b : Block) :
    (fireTimeout b).initialised = b.initialised := rfl

/-! ### noteAnswer: note the answer of the transport -/

@[simp] theorem noteAnswer_buf (a : SendAnswer) (b : Block) :
    (noteAnswer a b).buf = b.buf := rfl
@[simp] theorem noteAnswer_rd (a : SendAnswer) (b : Block) :
    (noteAnswer a b).rd = b.rd := rfl
@[simp] theorem noteAnswer_wr (a : SendAnswer) (b : Block) :
    (noteAnswer a b).wr = b.wr := rfl
@[simp] theorem noteAnswer_used (a : SendAnswer) (b : Block) :
    (noteAnswer a b).used = b.used := rfl
@[simp] theorem noteAnswer_pendingCount (a : SendAnswer) (b : Block) :
    (noteAnswer a b).pendingCount = b.pendingCount := rfl
@[simp] theorem noteAnswer_fsmState (a : SendAnswer) (b : Block) :
    (noteAnswer a b).fsmState = b.fsmState := rfl
@[simp] theorem noteAnswer_retryCount (a : SendAnswer) (b : Block) :
    (noteAnswer a b).retryCount = b.retryCount := rfl
@[simp] theorem noteAnswer_curSrc (a : SendAnswer) (b : Block) :
    (noteAnswer a b).curSrc = b.curSrc := rfl
@[simp] theorem noteAnswer_curAck (a : SendAnswer) (b : Block) :
    (noteAnswer a b).curAck = b.curAck := rfl
@[simp] theorem noteAnswer_curType (a : SendAnswer) (b : Block) :
    (noteAnswer a b).curType = b.curType := rfl
@[simp] theorem noteAnswer_curDircode (a : SendAnswer) (b : Block) :
    (noteAnswer a b).curDircode = b.curDircode := rfl
@[simp] theorem noteAnswer_curLen (a : SendAnswer) (b : Block) :
    (noteAnswer a b).curLen = b.curLen := rfl
@[simp] theorem noteAnswer_curPayload (a : SendAnswer) (b : Block) :
    (noteAnswer a b).curPayload = b.curPayload := rfl
@[simp] theorem noteAnswer_evAck (a : SendAnswer) (b : Block) :
    (noteAnswer a b).evAck = b.evAck := rfl
@[simp] theorem noteAnswer_evNack (a : SendAnswer) (b : Block) :
    (noteAnswer a b).evNack = b.evNack := rfl
@[simp] theorem noteAnswer_evTimeout (a : SendAnswer) (b : Block) :
    (noteAnswer a b).evTimeout = b.evTimeout := rfl
@[simp] theorem noteAnswer_timerActive (a : SendAnswer) (b : Block) :
    (noteAnswer a b).timerActive = b.timerActive := rfl
@[simp] theorem noteAnswer_timerStart (a : SendAnswer) (b : Block) :
    (noteAnswer a b).timerStart = b.timerStart := rfl
@[simp] theorem noteAnswer_stsSendBusy (a : SendAnswer) (b : Block) :
    (noteAnswer a b).stsSendBusy = (b.stsSendBusy || decide (a = .busy)) := rfl
@[simp] theorem noteAnswer_initialised (a : SendAnswer) (b : Block) :
    (noteAnswer a b).initialised = b.initialised := rfl

/-! ### dropRecord: take the oldest record out -/

@[simp] theorem dropRecord_buf (q : TxRequest) (b : Block) :
    (dropRecord q b).buf = b.buf := rfl
@[simp] theorem dropRecord_rd (q : TxRequest) (b : Block) :
    (dropRecord q b).rd = b.rd + BitVec.ofNat 10 (recSize q.payloadLength.toNat) := rfl
@[simp] theorem dropRecord_wr (q : TxRequest) (b : Block) :
    (dropRecord q b).wr = b.wr := rfl
@[simp] theorem dropRecord_used (q : TxRequest) (b : Block) :
    (dropRecord q b).used = b.used - BitVec.ofNat 11 (recSize q.payloadLength.toNat) := rfl
@[simp] theorem dropRecord_pendingCount (q : TxRequest) (b : Block) :
    (dropRecord q b).pendingCount = b.pendingCount - 1#8 := rfl
@[simp] theorem dropRecord_fsmState (q : TxRequest) (b : Block) :
    (dropRecord q b).fsmState = b.fsmState := rfl
@[simp] theorem dropRecord_retryCount (q : TxRequest) (b : Block) :
    (dropRecord q b).retryCount = b.retryCount := rfl
@[simp] theorem dropRecord_curSrc (q : TxRequest) (b : Block) :
    (dropRecord q b).curSrc = b.curSrc := rfl
@[simp] theorem dropRecord_curAck (q : TxRequest) (b : Block) :
    (dropRecord q b).curAck = b.curAck := rfl
@[simp] theorem dropRecord_curType (q : TxRequest) (b : Block) :
    (dropRecord q b).curType = b.curType := rfl
@[simp] theorem dropRecord_curDircode (q : TxRequest) (b : Block) :
    (dropRecord q b).curDircode = b.curDircode := rfl
@[simp] theorem dropRecord_curLen (q : TxRequest) (b : Block) :
    (dropRecord q b).curLen = b.curLen := rfl
@[simp] theorem dropRecord_curPayload (q : TxRequest) (b : Block) :
    (dropRecord q b).curPayload = b.curPayload := rfl
@[simp] theorem dropRecord_evAck (q : TxRequest) (b : Block) :
    (dropRecord q b).evAck = b.evAck := rfl
@[simp] theorem dropRecord_evNack (q : TxRequest) (b : Block) :
    (dropRecord q b).evNack = b.evNack := rfl
@[simp] theorem dropRecord_evTimeout (q : TxRequest) (b : Block) :
    (dropRecord q b).evTimeout = b.evTimeout := rfl
@[simp] theorem dropRecord_timerActive (q : TxRequest) (b : Block) :
    (dropRecord q b).timerActive = b.timerActive := rfl
@[simp] theorem dropRecord_timerStart (q : TxRequest) (b : Block) :
    (dropRecord q b).timerStart = b.timerStart := rfl
@[simp] theorem dropRecord_stsSendBusy (q : TxRequest) (b : Block) :
    (dropRecord q b).stsSendBusy = b.stsSendBusy := rfl
@[simp] theorem dropRecord_initialised (q : TxRequest) (b : Block) :
    (dropRecord q b).initialised = b.initialised := rfl

/-! ### appendRecord: store a record -/

@[simp] theorem appendRecord_buf (q : TxRequest) (b : Block) :
    (appendRecord q b).buf = ringWrite b.buf b.wr (recordBytes q) := rfl
@[simp] theorem appendRecord_rd (q : TxRequest) (b : Block) :
    (appendRecord q b).rd = b.rd := rfl
@[simp] theorem appendRecord_wr (q : TxRequest) (b : Block) :
    (appendRecord q b).wr = b.wr + BitVec.ofNat 10 (recSize q.payloadLength.toNat) := rfl
@[simp] theorem appendRecord_used (q : TxRequest) (b : Block) :
    (appendRecord q b).used = b.used + BitVec.ofNat 11 (recSize q.payloadLength.toNat) := rfl
@[simp] theorem appendRecord_pendingCount (q : TxRequest) (b : Block) :
    (appendRecord q b).pendingCount = b.pendingCount + 1#8 := rfl
@[simp] theorem appendRecord_fsmState (q : TxRequest) (b : Block) :
    (appendRecord q b).fsmState = b.fsmState := rfl
@[simp] theorem appendRecord_retryCount (q : TxRequest) (b : Block) :
    (appendRecord q b).retryCount = b.retryCount := rfl
@[simp] theorem appendRecord_curSrc (q : TxRequest) (b : Block) :
    (appendRecord q b).curSrc = b.curSrc := rfl
@[simp] theorem appendRecord_curAck (q : TxRequest) (b : Block) :
    (appendRecord q b).curAck = b.curAck := rfl
@[simp] theorem appendRecord_curType (q : TxRequest) (b : Block) :
    (appendRecord q b).curType = b.curType := rfl
@[simp] theorem appendRecord_curDircode (q : TxRequest) (b : Block) :
    (appendRecord q b).curDircode = b.curDircode := rfl
@[simp] theorem appendRecord_curLen (q : TxRequest) (b : Block) :
    (appendRecord q b).curLen = b.curLen := rfl
@[simp] theorem appendRecord_curPayload (q : TxRequest) (b : Block) :
    (appendRecord q b).curPayload = b.curPayload := rfl
@[simp] theorem appendRecord_evAck (q : TxRequest) (b : Block) :
    (appendRecord q b).evAck = b.evAck := rfl
@[simp] theorem appendRecord_evNack (q : TxRequest) (b : Block) :
    (appendRecord q b).evNack = b.evNack := rfl
@[simp] theorem appendRecord_evTimeout (q : TxRequest) (b : Block) :
    (appendRecord q b).evTimeout = b.evTimeout := rfl
@[simp] theorem appendRecord_timerActive (q : TxRequest) (b : Block) :
    (appendRecord q b).timerActive = b.timerActive := rfl
@[simp] theorem appendRecord_timerStart (q : TxRequest) (b : Block) :
    (appendRecord q b).timerStart = b.timerStart := rfl
@[simp] theorem appendRecord_stsSendBusy (q : TxRequest) (b : Block) :
    (appendRecord q b).stsSendBusy = b.stsSendBusy := rfl
@[simp] theorem appendRecord_initialised (q : TxRequest) (b : Block) :
    (appendRecord q b).initialised = b.initialised := rfl

/-! ### initialise: what INIT and rst write -/

@[simp] theorem initialise_buf (b : Block) :
    (initialise b).buf = b.buf := rfl
@[simp] theorem initialise_rd (b : Block) :
    (initialise b).rd = 0#10 := rfl
@[simp] theorem initialise_wr (b : Block) :
    (initialise b).wr = 0#10 := rfl
@[simp] theorem initialise_used (b : Block) :
    (initialise b).used = 0#11 := rfl
@[simp] theorem initialise_pendingCount (b : Block) :
    (initialise b).pendingCount = 0#8 := rfl
@[simp] theorem initialise_fsmState (b : Block) :
    (initialise b).fsmState = .pollPending := rfl
@[simp] theorem initialise_retryCount (b : Block) :
    (initialise b).retryCount = 0#2 := rfl
@[simp] theorem initialise_curSrc (b : Block) :
    (initialise b).curSrc = b.curSrc := rfl
@[simp] theorem initialise_curAck (b : Block) :
    (initialise b).curAck = b.curAck := rfl
@[simp] theorem initialise_curType (b : Block) :
    (initialise b).curType = b.curType := rfl
@[simp] theorem initialise_curDircode (b : Block) :
    (initialise b).curDircode = b.curDircode := rfl
@[simp] theorem initialise_curLen (b : Block) :
    (initialise b).curLen = b.curLen := rfl
@[simp] theorem initialise_curPayload (b : Block) :
    (initialise b).curPayload = b.curPayload := rfl
@[simp] theorem initialise_evAck (b : Block) :
    (initialise b).evAck = false := rfl
@[simp] theorem initialise_evNack (b : Block) :
    (initialise b).evNack = false := rfl
@[simp] theorem initialise_evTimeout (b : Block) :
    (initialise b).evTimeout = false := rfl
@[simp] theorem initialise_timerActive (b : Block) :
    (initialise b).timerActive = false := rfl
@[simp] theorem initialise_timerStart (b : Block) :
    (initialise b).timerStart = b.timerStart := rfl
@[simp] theorem initialise_stsSendBusy (b : Block) :
    (initialise b).stsSendBusy = false := rfl
@[simp] theorem initialise_initialised (b : Block) :
    (initialise b).initialised = true := rfl

/-! ### loadCurrent: load the current request -/

@[simp] theorem loadCurrent_buf (q : TxRequest) (b : Block) :
    (loadCurrent q b).buf = b.buf := rfl
@[simp] theorem loadCurrent_rd (q : TxRequest) (b : Block) :
    (loadCurrent q b).rd = b.rd := rfl
@[simp] theorem loadCurrent_wr (q : TxRequest) (b : Block) :
    (loadCurrent q b).wr = b.wr := rfl
@[simp] theorem loadCurrent_used (q : TxRequest) (b : Block) :
    (loadCurrent q b).used = b.used := rfl
@[simp] theorem loadCurrent_pendingCount (q : TxRequest) (b : Block) :
    (loadCurrent q b).pendingCount = b.pendingCount := rfl
@[simp] theorem loadCurrent_fsmState (q : TxRequest) (b : Block) :
    (loadCurrent q b).fsmState = b.fsmState := rfl
@[simp] theorem loadCurrent_retryCount (q : TxRequest) (b : Block) :
    (loadCurrent q b).retryCount = 0#2 := rfl
@[simp] theorem loadCurrent_curSrc (q : TxRequest) (b : Block) :
    (loadCurrent q b).curSrc = q.source := rfl
@[simp] theorem loadCurrent_curAck (q : TxRequest) (b : Block) :
    (loadCurrent q b).curAck = q.ackRequired := rfl
@[simp] theorem loadCurrent_curType (q : TxRequest) (b : Block) :
    (loadCurrent q b).curType = q.typeCode := rfl
@[simp] theorem loadCurrent_curDircode (q : TxRequest) (b : Block) :
    (loadCurrent q b).curDircode = q.dircode := rfl
@[simp] theorem loadCurrent_curLen (q : TxRequest) (b : Block) :
    (loadCurrent q b).curLen = q.payloadLength := rfl
@[simp] theorem loadCurrent_curPayload (q : TxRequest) (b : Block) :
    (loadCurrent q b).curPayload = q.payload ++ b.curPayload.drop q.payload.length := rfl
@[simp] theorem loadCurrent_evAck (q : TxRequest) (b : Block) :
    (loadCurrent q b).evAck = b.evAck := rfl
@[simp] theorem loadCurrent_evNack (q : TxRequest) (b : Block) :
    (loadCurrent q b).evNack = b.evNack := rfl
@[simp] theorem loadCurrent_evTimeout (q : TxRequest) (b : Block) :
    (loadCurrent q b).evTimeout = b.evTimeout := rfl
@[simp] theorem loadCurrent_timerActive (q : TxRequest) (b : Block) :
    (loadCurrent q b).timerActive = b.timerActive := rfl
@[simp] theorem loadCurrent_timerStart (q : TxRequest) (b : Block) :
    (loadCurrent q b).timerStart = b.timerStart := rfl
@[simp] theorem loadCurrent_stsSendBusy (q : TxRequest) (b : Block) :
    (loadCurrent q b).stsSendBusy = b.stsSendBusy := rfl
@[simp] theorem loadCurrent_initialised (q : TxRequest) (b : Block) :
    (loadCurrent q b).initialised = b.initialised := rfl

/-! ### Updates of the state -/

@[simp] theorem takeInput_toBlock (rest : List Input) (s : State) : (takeInput rest s).toBlock = s.toBlock := rfl
@[simp] theorem takeInput_inputs (rest : List Input) (s : State) : (takeInput rest s).inputs = rest := rfl
@[simp] theorem takeReset_toBlock (rest : List Input) (s : State) : (takeReset rest s).toBlock = initialise s.toBlock := rfl
@[simp] theorem takeReset_inputs (rest : List Input) (s : State) : (takeReset rest s).inputs = rest := rfl
@[simp] theorem withFetchWord_toBlock (s : State) (nbits w : Nat) : (s.withFetchWord nbits w).toBlock = s.toBlock := rfl
@[simp] theorem withFetchWord_inputs (s : State) (nbits w : Nat) :
    (s.withFetchWord nbits w).inputs = tableInput nbits w .accepted :: s.inputs := rfl

end Sys2Proof.Machine
end

