-- ==== Sys2Proof/Laws/Queue.lean ====
section
/-! SUPPORT. What the record and queue procedures of Machine/Ops.lean can do, said once each (spec/30_encoding.md R70 to
R72, spec/40_queue.md R91, R92). -/

namespace Sys2Proof.Machine

/-! ### Records -/

@[simp] theorem headerBytes_length (t d : Byte) (n : BitVec 16) : (headerBytes t d n).length = 4 := rfl

@[simp] theorem recordBytes_length (q : TxRequest) : (recordBytes q).length = 5 + q.payload.length := by
  simp [recordBytes]; omega

theorem recSize_eq (n : Nat) : recSize n = 5 + n := rfl

theorem TxRequest.wf_iff (q : TxRequest) : q.wf = true ↔
    q.payloadLength.toNat ≤ 256 ∧ q.payload.length = q.payloadLength.toNat ∧ assignedDircode q.dircode = true := by
  simp only [TxRequest.wf, Config.maxPayloadSize, Bool.and_eq_true, decide_eq_true_eq, and_assoc]

/-- A record takes the ring bytes its size says (R70, R71). -/
theorem recordBytes_length_of_wf {q : TxRequest} (hq : q.wf = true) : (recordBytes q).length = q.size := by
  rw [recordBytes_length, ((TxRequest.wf_iff q).1 hq).2.1]; rfl

theorem TxRequest.size_bounds {q : TxRequest} (hq : q.wf = true) : 5 ≤ q.size ∧ q.size ≤ 261 := by
  have := ((TxRequest.wf_iff q).1 hq).1
  simp only [TxRequest.size, recSize_eq]; omega

theorem le16_join (n : BitVec 16) : (n.extractLsb' 8 8 ++ n.extractLsb' 0 8 : BitVec 16) = n := by
  ext i hi
  simp only [BitVec.getElem_append, BitVec.getElem_extractLsb']
  split
  · simp [BitVec.getLsbD_eq_getElem hi]
  · rw [show 8 + (i - 8) = i by omega]; simp [BitVec.getLsbD_eq_getElem hi]

theorem sourceByte_source (b : Bool) (v : BitVec 7) : (BitVec.ofBool b ++ v : BitVec 8).extractLsb' 0 7 = v := by
  ext i hi
  simp only [BitVec.getElem_extractLsb', BitVec.getLsbD_append, Nat.zero_add, hi, ite_true,
    BitVec.getLsbD_eq_getElem hi]

theorem sourceByte_ack (b : Bool) (v : BitVec 7) : (BitVec.ofBool b ++ v : BitVec 8).getLsbD 7 = b := by
  rw [BitVec.getLsbD_append]; cases b <;> rfl

/-- Decoding a record that lies whole at a ring index gives the request back (R70, R72). -/
theorem decodeRecord_of_contents {m : Ring} {a : BitVec 10} {q : TxRequest} (hq : q.wf = true)
    (h : ringRead m a q.size = some (recordBytes q)) : decodeRecord m a = some q := by
  obtain ⟨h1, h2, -⟩ := (TxRequest.wf_iff q).1 hq
  have hs : q.size = 5 + q.payloadLength.toNat := rfl
  have hr : recordBytes q = [BitVec.ofBool q.ackRequired ++ q.source, q.typeCode, q.dircode,
      q.payloadLength.extractLsb' 0 8, q.payloadLength.extractLsb' 8 8] ++ q.payload := rfl
  rw [hs, hr, ringRead_append m a 5 _ _ _ rfl] at h
  simp only [decodeRecord, h.1, le16_join, sourceByte_source, sourceByte_ack]
  rw [show (5#10 : BitVec 10) = BitVec.ofNat 10 5 from rfl, h.2]

/-! ### The procedures -/

/-- Everything READ_REQUEST's and FETCH_REQUEST's look at the oldest record can answer (R92, R93). -/
theorem peekRequest_cases (b : Block) :
    (b.pendingCount = 0#8 ∧ peekRequest b = .ok none) ∨
    (b.pendingCount ≠ 0#8 ∧ ∃ q, decodeRecord b.buf b.rd = some q ∧ peekRequest b = .ok (some q)) ∨
    (b.pendingCount ≠ 0#8 ∧ decodeRecord b.buf b.rd = none ∧ peekRequest b = .error .ringByteUnwritten) := by
  by_cases h : b.pendingCount = 0#8
  · exact .inl ⟨h, by simp [peekRequest, h]⟩
  · cases hd : decodeRecord b.buf b.rd with
    | none => exact .inr (.inr ⟨h, rfl, by simp [peekRequest, h, hd]⟩)
    | some q => exact .inr (.inl ⟨h, q, rfl, by simp [peekRequest, h, hd]⟩)

/-- Everything the procedure READ_REQUEST can do (R92). -/
theorem readRequest_cases (b : Block) :
    (b.pendingCount = 0#8 ∧ readRequest b = .ok (none, b)) ∨
    (b.pendingCount ≠ 0#8 ∧ ∃ q, decodeRecord b.buf b.rd = some q ∧ readRequest b = .ok (some q, dropRecord q b)) ∨
    (b.pendingCount ≠ 0#8 ∧ decodeRecord b.buf b.rd = none ∧ readRequest b = .error .ringByteUnwritten) := by
  rcases peekRequest_cases b with ⟨h, e⟩ | ⟨h, q, hd, e⟩ | ⟨h, hd, e⟩
  · exact .inl ⟨h, by simp [readRequest, e]⟩
  · exact .inr (.inl ⟨h, q, hd, by simp [readRequest, e]⟩)
  · exact .inr (.inr ⟨h, hd, by simp [readRequest, e]⟩)

/-- Everything the procedure WRITE_REQUEST can do (R91, R95). -/
theorem writeRequest_cases (q : TxRequest) (b : Block) :
    (256 < q.payloadLength.toNat ∧ writeRequest q b = (.payloadTooLarge, b)) ∨
    (q.payloadLength.toNat ≤ 256 ∧ 1024 - b.used.toNat < q.size ∧ writeRequest q b = (.queueFull, b)) ∨
    (q.payloadLength.toNat ≤ 256 ∧ q.size ≤ 1024 - b.used.toNat ∧ writeRequest q b = (.ok, appendRecord q b)) := by
  have hf : freeSpace b = 1024 - b.used.toNat := rfl
  have hs : recSize q.payloadLength.toNat = q.size := rfl
  unfold writeRequest
  by_cases h1 : Config.maxPayloadSize < q.payloadLength.toNat
  · exact .inl ⟨h1, if_pos h1⟩
  · have h1' : q.payloadLength.toNat ≤ 256 := Nat.le_of_not_lt h1
    by_cases h2 : freeSpace b < recSize q.payloadLength.toNat
    · exact .inr (.inl ⟨h1', h2, by rw [if_neg h1, if_pos h2]⟩)
    · exact .inr (.inr ⟨h1', by omega, by rw [if_neg h1, if_neg h2]⟩)

/-! ### The procedures on a queue that holds whole requests -/

theorem totalSize_cons (q : TxRequest) (reqs : List TxRequest) : totalSize (q :: reqs) = q.size + totalSize reqs := by
  simp [totalSize]

theorem totalSize_append (l r : List TxRequest) : totalSize (l ++ r) = totalSize l + totalSize r := by
  simp [totalSize]

/-- Each record takes at least five bytes. -/
theorem length_le_totalSize {reqs : List TxRequest} (h : ∀ q ∈ reqs, q.wf = true) :
    5 * reqs.length ≤ totalSize reqs := by
  induction reqs with
  | nil => simp [totalSize]
  | cons q r ih =>
    have h1 := (TxRequest.size_bounds (h q (by simp))).1
    have h2 := ih fun x hx => h x (by simp [hx])
    rw [totalSize_cons, List.length_cons]; omega

theorem flatMap_recordBytes_length {reqs : List TxRequest} (h : ∀ q ∈ reqs, q.wf = true) :
    (reqs.flatMap recordBytes).length = totalSize reqs := by
  induction reqs with
  | nil => rfl
  | cons q r ih =>
    rw [List.flatMap_cons, List.length_append, totalSize_cons, recordBytes_length_of_wf (h q (by simp)),
      ih fun x hx => h x (by simp [hx])]

/-- A queue whose registers and ring agree with another's holds the same requests. -/
theorem QueueHolds.congr {b c : Block} {reqs : List TxRequest} (h : QueueHolds b reqs) (hb : c.buf = b.buf)
    (hr : c.rd = b.rd) (hw : c.wr = b.wr) (hu : c.used = b.used) (hp : c.pendingCount = b.pendingCount) :
    QueueHolds c reqs where
  requests_wf := h.requests_wf
  count := by rw [hp]; exact h.count
  occupied := by rw [hu]; exact h.occupied
  fits := by rw [hu]; exact h.fits
  cursors := by rw [hw, hr, hu]; exact h.cursors
  contents := by rw [hb, hr, hu]; exact h.contents

/-- The oldest record decodes to the oldest request (R72, R92). -/
theorem QueueHolds.decode_head {b : Block} {q : TxRequest} {reqs : List TxRequest} (h : QueueHolds b (q :: reqs)) :
    decodeRecord b.buf b.rd = some q := by
  have hq := h.requests_wf q (by simp)
  refine decodeRecord_of_contents hq ?_
  have hc := h.contents
  rw [h.occupied, totalSize_cons, List.flatMap_cons,
    ringRead_append _ _ _ _ _ _ (recordBytes_length_of_wf hq)] at hc
  exact hc.1

theorem QueueHolds.count_ne_zero {b : Block} {q : TxRequest} {reqs : List TxRequest} (h : QueueHolds b (q :: reqs)) :
    b.pendingCount ≠ 0#8 := by
  intro e; have := h.count; simp [e] at this

theorem QueueHolds.eq_nil_iff {b : Block} {reqs : List TxRequest} (h : QueueHolds b reqs) :
    reqs = [] ↔ b.pendingCount = 0#8 := by
  rw [← List.length_eq_zero_iff, ← h.count]
  exact ⟨fun e => BitVec.eq_of_toNat_eq (by simpa using e), fun e => by simp [e]⟩

/-- Taking the oldest record out leaves the others (R92). -/
theorem QueueHolds.dropRecord {b : Block} {q : TxRequest} {reqs : List TxRequest} (h : QueueHolds b (q :: reqs)) :
    QueueHolds (dropRecord q b) reqs := by
  have hq := h.requests_wf q (by simp)
  have hb := TxRequest.size_bounds hq
  have ho := h.occupied
  have hf := h.fits
  have hcnt := h.count
  have hcur := h.cursors
  have hcon := h.contents
  rw [totalSize_cons] at ho
  simp only [Config.ringUsable] at hf
  simp only [List.length_cons] at hcnt
  have hsz : recSize q.payloadLength.toNat = q.size := rfl
  have hu : (Machine.dropRecord q b).used.toNat = totalSize reqs := by
    simp only [dropRecord_used, hsz, BitVec.toNat_sub, BitVec.toNat_ofNat]
    omega
  have hrd : (Machine.dropRecord q b).rd = b.rd + BitVec.ofNat 10 q.size := rfl
  refine ⟨fun x hx => h.requests_wf x (by simp [hx]), ?_, hu, ?_, ?_, ?_⟩
  · have := b.pendingCount.isLt
    simp only [dropRecord_pendingCount, BitVec.toNat_sub]
    simp; omega
  · rw [hu]; simp only [Config.ringUsable]; omega
  · rw [hu, hrd, ringIndex_add, dropRecord_wr, hcur]
    simp only [Config.ringCapacity] at hcur ⊢
    omega
  · rw [hu, hrd, dropRecord_buf]
    rw [ho, List.flatMap_cons, ringRead_append _ _ _ _ _ _ (recordBytes_length_of_wf hq)] at hcon
    exact hcon.2

/-- Storing an accepted record puts its request behind the others (R91). -/
theorem QueueHolds.appendRecord {b : Block} {q : TxRequest} {reqs : List TxRequest} (h : QueueHolds b reqs)
    (hq : q.wf = true) (hfree : q.size ≤ 1024 - b.used.toNat) : QueueHolds (appendRecord q b) (reqs ++ [q]) := by
  have hb := TxRequest.size_bounds hq
  have ho := h.occupied
  have hf := h.fits
  have hcnt := h.count
  have hcur := h.cursors
  have hlen := length_le_totalSize h.requests_wf
  simp only [Config.ringUsable] at hf
  have hsz : recSize q.payloadLength.toNat = q.size := rfl
  have hu : (Machine.appendRecord q b).used.toNat = b.used.toNat + q.size := by
    simp only [appendRecord_used, hsz, BitVec.toNat_add, BitVec.toNat_ofNat]
    omega
  have hwr : b.wr = b.rd + BitVec.ofNat 10 b.used.toNat :=
    BitVec.eq_of_toNat_eq (by rw [ringIndex_add]; exact hcur)
  have hrl : (recordBytes q).length = q.size := recordBytes_length_of_wf hq
  refine ⟨?_, ?_, ?_, ?_, ?_, ?_⟩
  · intro x hx
    rcases List.mem_append.1 hx with hx | hx
    · exact h.requests_wf x hx
    · rw [List.mem_singleton.1 hx]; exact hq
  · simp only [appendRecord_pendingCount, BitVec.toNat_add, List.length_append, List.length_singleton]
    simp; omega
  · rw [hu, totalSize_append, ho]; simp [totalSize]
  · rw [hu]; simp only [Config.ringUsable]; omega
  · rw [hu, appendRecord_wr, appendRecord_rd, hsz, ringIndex_add, hcur]
    simp only [Config.ringCapacity]; omega
  · rw [hu, appendRecord_buf, appendRecord_rd, List.flatMap_append, List.flatMap_singleton,
      ringRead_append _ _ _ _ _ _ (by rw [flatMap_recordBytes_length h.requests_wf, ho]), hwr]
    refine ⟨?_, ?_⟩
    · rw [ringRead_ringWrite_apart _ _ _ _ (by omega)]; exact h.contents
    · rw [← hrl]; exact ringRead_ringWrite_same _ _ _ (by omega)

end Sys2Proof.Machine
end

