-- ==== Sys2Proof/Laws/Fsm.lean ====
section
/-! SUPPORT. What the transitions of the FSM, one tick of it and TICK_TIMERS' look at the timer can do, said once each
(spec/41_txfsm.md R113 to R120, R123 to R126). -/

namespace Sys2Proof.Machine

/-! ### Transitions -/

/-- Everything `go_poll` does (R113). -/
theorem goPoll_eq (o : Leaving) (x : Tick) : goPoll o x =
    { x with
      block := { x.block with
        timerActive := false, evAck := false, evNack := false, evTimeout := false, fsmState := .pollPending }
      resp := emitLeaving o x.resp } := rfl

@[simp] theorem goPoll_resp (o : Leaving) (x : Tick) : (goPoll o x).resp = emitLeaving o x.resp := rfl
@[simp] theorem goPoll_send (o : Leaving) (x : Tick) : (goPoll o x).send = x.send := rfl

/-- Leaving the source state changes nothing of the frame that the entry action sends (R113, R115). -/
theorem currentFrame_entering (b : Block) :
    currentFrame { clearEvents (stopTimer b) with fsmState := .transmitPacket } = currentFrame b := by
  unfold currentFrame; rfl

/-- `go_transmit`, unfolded: the frame is that of the request in the `cur_*` registers (R113, R115, R116). -/
theorem goTransmit_cases (t : BitVec 32) (a : SendAnswer) (x : Tick) : goTransmit t a x =
    (if x.block.curAck then
      ⟨startTimer t (noteAnswer a { clearEvents (stopTimer x.block) with fsmState := .transmitPacket }),
        { x.resp with tx := txOfAnswer a }, some ⟨currentFrame x.block, a⟩⟩
    else
      goPoll .done ⟨noteAnswer a { clearEvents (stopTimer x.block) with fsmState := .transmitPacket },
        { x.resp with tx := txOfAnswer a }, some ⟨currentFrame x.block, a⟩⟩) := by
  rw [← currentFrame_entering x.block]; rfl

/-- Everything `go_transmit` does for a request that asks for acknowledgment (R113, R115). -/
theorem goTransmit_ack (t : BitVec 32) (a : SendAnswer) {x : Tick} (h : x.block.curAck = true) : goTransmit t a x =
    { block := { x.block with
        evAck := false, evNack := false, evTimeout := false, fsmState := .transmitPacket
        timerActive := true, timerStart := t
        stsSendBusy := x.block.stsSendBusy || decide (a = .busy) }
      resp := { x.resp with tx := txOfAnswer a }
      send := some ⟨currentFrame x.block, a⟩ } := by
  rw [goTransmit_cases, if_pos h]; rfl

/-- Everything `go_transmit` does for a request that asks for none (R113, R115, R116). -/
theorem goTransmit_noAck (t : BitVec 32) (a : SendAnswer) {x : Tick} (h : x.block.curAck = false) : goTransmit t a x =
    { block := { x.block with
        evAck := false, evNack := false, evTimeout := false, fsmState := .pollPending
        timerActive := false
        stsSendBusy := x.block.stsSendBusy || decide (a = .busy) }
      resp := { x.resp with tx := txOfAnswer a, done := true }
      send := some ⟨currentFrame x.block, a⟩ } := by
  rw [goTransmit_cases, if_neg (by simp [h]), goPoll_eq]; rfl

/-- Everything `go_transmit` does, for either kind of request (R113, R115, R116). -/
theorem goTransmit_eq (t : BitVec 32) (a : SendAnswer) (x : Tick) : goTransmit t a x =
    { block := { x.block with
        evAck := false, evNack := false, evTimeout := false
        fsmState := if x.block.curAck then .transmitPacket else .pollPending
        timerActive := x.block.curAck
        timerStart := if x.block.curAck then t else x.block.timerStart
        stsSendBusy := x.block.stsSendBusy || decide (a = .busy) }
      resp := { x.resp with tx := txOfAnswer a, done := x.resp.done || !x.block.curAck }
      send := some ⟨currentFrame x.block, a⟩ } := by
  by_cases h : x.block.curAck = true
  · rw [goTransmit_ack t a h]; simp [h]
  · rw [goTransmit_noAck t a (by simpa using h)]; simp [h]

/-- Both branches of the reaction to a timeout (R118, R119, R123). -/
theorem onTimeout_cases (t : BitVec 32) (a : SendAnswer) (x : Tick) :
    (x.block.retryCount.toNat < 2 ∧ onTimeout t a x =
      goTransmit t a { x with block := { x.block with retryCount := x.block.retryCount + 1#2 } }) ∨
    (2 ≤ x.block.retryCount.toNat ∧ onTimeout t a x = goPoll .dropped x) := by
  by_cases h : x.block.retryCount.toNat < Config.maxRetries
  · exact .inl ⟨h, if_pos h⟩
  · exact .inr ⟨Nat.le_of_not_lt h, if_neg h⟩

/-! ### One tick -/

@[simp] theorem Tick.start_block (b : Block) : (Tick.start b).block = b := rfl
@[simp] theorem Tick.start_resp (b : Block) : (Tick.start b).resp = .nothing := rfl
@[simp] theorem Tick.start_send (b : Block) : (Tick.start b).send = none := rfl

/-- A RUN that has just taken a request out of the queue and loaded it (R114). -/
theorem runTick_dequeued (t : BitVec 32) (a : SendAnswer) {b : Block} {q : TxRequest} (hf : b.fsmState = .pollPending)
    (hp : b.pendingCount ≠ 0#8) (hd : decodeRecord b.buf b.rd = some q) : runTick t a b =
      .ok (goTransmit t a ⟨loadCurrent q (dropRecord q b), ⟨true, .none, false, false⟩, none⟩) := by
  have hr : readRequest b = .ok (some q, dropRecord q b) := by
    rcases readRequest_cases b with ⟨h, -⟩ | ⟨-, q', hd', hr⟩ | ⟨-, hd', -⟩
    · exact absurd h hp
    · rw [hd] at hd'; cases hd'; exact hr
    · rw [hd] at hd'; cases hd'
  simp only [runTick, hf, hp, if_false, onPendingPacket, Tick.start_block, hr]
  rfl

/-- Everything one tick of the FSM can do, row by row of the transition table (R112, R124). -/
theorem runTick_cases (t : BitVec 32) (a : SendAnswer) (b : Block) :
    (b.fsmState = .pollPending ∧ b.pendingCount = 0#8 ∧ runTick t a b = .ok (.start b)) ∨
    (b.fsmState = .pollPending ∧ b.pendingCount ≠ 0#8 ∧ ∃ q, decodeRecord b.buf b.rd = some q ∧
      runTick t a b = .ok (goTransmit t a ⟨loadCurrent q (dropRecord q b), ⟨true, .none, false, false⟩, none⟩)) ∨
    (b.fsmState = .pollPending ∧ b.pendingCount ≠ 0#8 ∧ decodeRecord b.buf b.rd = none ∧
      runTick t a b = .error .ringByteUnwritten) ∨
    (b.fsmState = .transmitPacket ∧ b.evAck = true ∧ runTick t a b = .ok (goPoll .done (.start b))) ∨
    (b.fsmState = .transmitPacket ∧ b.evAck = false ∧ b.evNack = true ∧
      runTick t a b = .ok (goTransmit t a (.start b))) ∨
    (b.fsmState = .transmitPacket ∧ b.evAck = false ∧ b.evNack = false ∧ b.evTimeout = true ∧
      runTick t a b = .ok (onTimeout t a (.start b))) ∨
    (b.fsmState = .transmitPacket ∧ b.evAck = false ∧ b.evNack = false ∧ b.evTimeout = false ∧
      runTick t a b = .ok (.start b)) := by
  cases hf : b.fsmState with
  | pollPending =>
    rcases readRequest_cases b with ⟨hp, -⟩ | ⟨hp, q, hd, -⟩ | ⟨hp, hd, hr⟩
    · exact .inl ⟨rfl, hp, by simp [runTick, hf, hp]⟩
    · exact .inr (.inl ⟨rfl, hp, q, hd, runTick_dequeued t a hf hp hd⟩)
    · exact .inr (.inr (.inl ⟨rfl, hp, hd, by simp [runTick, hf, hp, onPendingPacket, hr]⟩))
  | transmitPacket =>
    refine .inr (.inr (.inr ?_))
    cases ha : b.evAck <;> cases hn : b.evNack <;> cases ht : b.evTimeout <;> simp [runTick, hf, ha, hn, ht]

/-- The frame of a request just loaded is the frame of that request (R114, R115). -/
theorem currentFrame_loadCurrent {q : TxRequest} (b : Block) (hq : q.wf = true) :
    currentFrame (loadCurrent q b) = serialize q.typeCode q.dircode q.payloadLength q.payload := by
  have hp := ((TxRequest.wf_iff q).1 hq).2.1
  simp only [currentFrame, loadCurrent_curType, loadCurrent_curDircode, loadCurrent_curLen, loadCurrent_curPayload,
    ← hp, List.take_left]

/-- The tick that dequeues, on a ring that holds whole requests (R114). -/
theorem runTick_dequeue {b : Block} {q : TxRequest} {reqs : List TxRequest} (t : BitVec 32) (a : SendAnswer)
    (hf : b.fsmState = .pollPending) (hq : QueueHolds b (q :: reqs)) : runTick t a b =
      .ok (goTransmit t a ⟨loadCurrent q (dropRecord q b), ⟨true, .none, false, false⟩, none⟩) :=
  runTick_dequeued t a hf hq.count_ne_zero hq.decode_head

/-! ### The timer -/

/-- Everything TICK_TIMERS' look at the timer can do (R120). -/
theorem examineTimer_cases (t : BitVec 32) (b : Block) :
    (b.timerActive = true ∧ 50 ≤ (t - b.timerStart).toNat ∧
      examineTimer t b = { b with evTimeout := true, timerActive := false }) ∨
    ((b.timerActive = false ∨ (t - b.timerStart).toNat < 50) ∧ examineTimer t b = b) := by
  unfold examineTimer timerExpired
  cases ha : b.timerActive
  · exact .inr ⟨.inl rfl, by simp⟩
  · by_cases h : Config.ackTimeoutMs ≤ (t - b.timerStart).toNat
    · exact .inl ⟨rfl, h, by simp only [h, decide_true, Bool.and_self, if_true]; rfl⟩
    · exact .inr ⟨.inr (Nat.lt_of_not_le h), by simp only [h, decide_false, Bool.and_false]; rfl⟩

end Sys2Proof.Machine
end

