-- ==== Sys2Proof/Laws/Exec.lean ====
section
/-! SUPPORT. How `exec` and `outputOf` follow from performing an operation, everything an operation that completes can have
done, in one inversion lemma, and what a step and a run do with it. -/

namespace Sys2Proof.Machine

/-! ### Guards and ends of operations -/

@[simp] theorem whenInitialised_true {b : Block} (h : b.initialised = true) (p : Performed) :
    whenInitialised b p = p := by simp [whenInitialised, h]

@[simp] theorem whenInitialised_false {b : Block} (h : b.initialised = false) (p : Performed) :
    whenInitialised b p = .refused .notInitialised := by simp [whenInitialised, h]

/-- A guarded operation completes only in an initialised block. -/
theorem whenInitialised_eq_next {b : Block} {e : Effect} {p : Performed} :
    whenInitialised b p = .next e ↔ b.initialised = true ∧ p = .next e := by
  by_cases h : b.initialised = true
  · simp [whenInitialised, h]
  · simp [whenInitialised, h]

@[simp] theorem settle_next (s : State) (e : Effect) : settle s (.next e) = .next ⟨e.block, s.inputs⟩ := rfl
@[simp] theorem settle_fault (s : State) (f : Fault) : settle s (.fault f) = .fault f := rfl
@[simp] theorem settle_refused (s : State) (r : Refusal) : settle s (.refused r) = .refused r := rfl

@[simp] theorem outputIn_next (e : Effect) : outputIn (.next e) = some e.output := rfl
@[simp] theorem outputIn_fault (f : Fault) : outputIn (.fault f) = none := rfl
@[simp] theorem outputIn_refused (r : Refusal) : outputIn (.refused r) = none := rfl

@[simp] theorem mapNext_next (f : State → State) (s : State) : mapNext f (.next s) = .next (f s) := rfl
@[simp] theorem mapNext_fault (f : State → State) (x : Fault) : mapNext f (.fault x) = .fault x := rfl
@[simp] theorem mapNext_refused (f : State → State) (x : Refusal) : mapNext f (.refused x) = .refused x := rfl

/-! ### Response words (R65, R128) -/

@[simp] theorem wordRS_ok : wordRS .ok = 0#48 := by decide
@[simp] theorem wordRS_queueFull : wordRS .queueFull = 1#48 := by decide
@[simp] theorem wordRS_payloadTooLarge : wordRS .payloadTooLarge = 2#48 := by decide
@[simp] theorem wordRS_empty : wordRS .empty = 3#48 := by decide
@[simp] theorem wordRS_illegalOp : wordRS .illegalOp = 4#48 := by decide
@[simp] theorem wordRR_nothing : wordRR .nothing = 0#48 := by decide
@[simp] theorem wordRR_done : wordRR (emitLeaving .done .nothing) = 0x080#48 := by decide
@[simp] theorem wordRR_dropped : wordRR (emitLeaving .dropped .nothing) = 0x100#48 := by decide

/-- The word of a RUN that makes a send, for either answer of the transport. -/
theorem wordRR_sent (dequeued done : Bool) (a : SendAnswer) : wordRR ⟨dequeued, txOfAnswer a, done, false⟩ =
    match dequeued, done, a with
    | true, false, .accepted => 0x030#48
    | true, false, .busy => 0x050#48
    | true, true, .accepted => 0x0B0#48
    | true, true, .busy => 0x0D0#48
    | false, false, .accepted => 0x020#48
    | false, false, .busy => 0x040#48
    | false, true, .accepted => 0x0A0#48
    | false, true, .busy => 0x0C0#48 := by
  cases dequeued <;> cases done <;> cases a <;> decide

/-! ### Operations -/

/-- `exec` is the state that performing the operation leaves: the meanings and `outputOf` speak of one operation. -/
theorem exec_eq_settle (i : Instr) (s : State) : exec i s = settle s (perform i (presentedAnswer s) s.toBlock) := by
  cases i <;> rfl

/-- An operation that completes: its state and its output come from one effect. -/
theorem exec_eq_next {i : Instr} {s t : State} : exec i s = .next t ↔
    ∃ e, perform i (presentedAnswer s) s.toBlock = .next e ∧ outputOf i s = some e.output ∧
      t = ⟨e.block, s.inputs⟩ := by
  rw [exec_eq_settle, outputOf]
  cases perform i (presentedAnswer s) s.toBlock with
  | next e => simp [eq_comm]
  | fault f => simp
  | refused r => simp

/-- An operation performed on the block of a state, as `exec` and `outputOf` show it. -/
theorem exec_of_perform {i : Instr} {s : State} {b : Block} {o : Output}
    (h : perform i (presentedAnswer s) s.toBlock = .next ⟨b, o⟩) :
    exec i s = .next ⟨b, s.inputs⟩ ∧ outputOf i s = some o := by
  rw [exec_eq_settle, outputOf, h]; exact ⟨rfl, rfl⟩

/-- An operation that leaves the block as it is leaves the state as it is. -/
theorem exec_of_perform_same {i : Instr} {s : State} {o : Output}
    (h : perform i (presentedAnswer s) s.toBlock = .next ⟨s.toBlock, o⟩) :
    exec i s = .next s ∧ outputOf i s = some o := exec_of_perform h

/-- A RUN on a tick that completes (R112). -/
theorem exec_run_of_tick {now : BitVec 32} {s : State} {x : Tick} (h : s.initialised = true)
    (ht : runTick now (presentedAnswer s) s.toBlock = .ok x) :
    exec (.run now) s = .next ⟨x.block, s.inputs⟩ ∧ outputOf (.run now) s = some ⟨⟨wordRR x.resp, []⟩, x.send⟩ := by
  refine exec_of_perform ?_
  rw [perform, performRun, whenInitialised_true h, ht]

/-- A RUN that completes is a tick that completes, with its response and its send put out (R112). -/
theorem performRun_eq_next {now : BitVec 32} {a : SendAnswer} {b : Block} {e : Effect} :
    performRun now a b = .next e ↔
      b.initialised = true ∧ ∃ x, runTick now a b = .ok x ∧ e = ⟨x.block, ⟨⟨wordRR x.resp, []⟩, x.send⟩⟩ := by
  rw [performRun, whenInitialised_eq_next]
  refine and_congr_right fun _ => ?_
  cases runTick now a b <;> simp [eq_comm]

/-- The codes whose operation leaves the block as it is and makes no send. -/
def answersOnly (i : Instr) : Prop :=
  i ∈ [Instr.fetchRequest, .pendingCount, .readRequest, .reserved9, .reservedA, .reservedB, .reservedC, .reservedD,
    .reservedE, .reservedF]

/-- Everything an operation that completes can have done, and put out. -/
theorem perform_cases {i : Instr} {a : SendAnswer} {b : Block} {e : Effect} (h : perform i a b = .next e) :
    (i = .init ∧ e = ⟨initialise b, ⟨⟨wordRS .ok, []⟩, none⟩⟩) ∨
    (∃ now x, i = .run now ∧ b.initialised = true ∧ runTick now a b = .ok x ∧
      e = ⟨x.block, ⟨⟨wordRR x.resp, []⟩, x.send⟩⟩) ∨
    (∃ now, i = .tickTimers now ∧ b.initialised = true ∧ e = ⟨examineTimer now b, ⟨⟨wordRS .ok, []⟩, none⟩⟩) ∨
    (i = .notifyAck ∧ b.initialised = true ∧ e = ⟨raiseAck b, ⟨⟨wordRS .ok, []⟩, none⟩⟩) ∨
    (i = .notifyNack ∧ b.initialised = true ∧ e = ⟨raiseNack b, ⟨⟨wordRS .ok, []⟩, none⟩⟩) ∨
    (∃ v w x y n p, i = .writeRequest v w x y n p ∧ b.initialised = true ∧
      e = ⟨(writeRequest (requestOf v w x y n p) b).2,
        ⟨⟨wordRS (writeRequest (requestOf v w x y n p) b).1, []⟩, none⟩⟩) ∨
    (answersOnly i ∧ b.initialised = true ∧ ∃ w p, e = ⟨b, ⟨⟨w, p⟩, none⟩⟩) := by
  have illegal : answerIllegalOp b = .next e → b.initialised = true ∧ ∃ w p, e = ⟨b, ⟨⟨w, p⟩, none⟩⟩ := fun h => by
    rw [answerIllegalOp, whenInitialised_eq_next] at h
    exact ⟨h.1, _, _, (Host.Outcome.next.inj h.2).symm⟩
  cases i with
  | init => exact .inl ⟨rfl, (Host.Outcome.next.inj h).symm⟩
  | run now =>
    obtain ⟨h0, x, ht, he⟩ := performRun_eq_next.1 h
    exact .inr (.inl ⟨now, x, rfl, h0, ht, he⟩)
  | tickTimers now =>
    obtain ⟨h0, h⟩ := whenInitialised_eq_next.1 h
    exact .inr (.inr (.inl ⟨now, rfl, h0, (Host.Outcome.next.inj h).symm⟩))
  | notifyAck =>
    obtain ⟨h0, h⟩ := whenInitialised_eq_next.1 h
    exact .inr (.inr (.inr (.inl ⟨rfl, h0, (Host.Outcome.next.inj h).symm⟩)))
  | notifyNack =>
    obtain ⟨h0, h⟩ := whenInitialised_eq_next.1 h
    exact .inr (.inr (.inr (.inr (.inl ⟨rfl, h0, (Host.Outcome.next.inj h).symm⟩))))
  | writeRequest v w x y n p =>
    obtain ⟨h0, h⟩ := whenInitialised_eq_next.1 h
    exact .inr (.inr (.inr (.inr (.inr (.inl ⟨v, w, x, y, n, p, rfl, h0, (Host.Outcome.next.inj h).symm⟩)))))
  | fetchRequest =>
    obtain ⟨h0, h⟩ := whenInitialised_eq_next.1 h
    refine .inr (.inr (.inr (.inr (.inr (.inr ⟨by simp [answersOnly], h0, ?_⟩)))))
    rcases peekRequest_cases b with ⟨-, he⟩ | ⟨-, q, -, he⟩ | ⟨-, -, he⟩ <;> rw [he] at h
    · exact ⟨_, _, (Host.Outcome.next.inj h).symm⟩
    · exact ⟨_, _, (Host.Outcome.next.inj h).symm⟩
    · exact absurd h (by simp)
  | pendingCount =>
    obtain ⟨h0, h⟩ := whenInitialised_eq_next.1 h
    exact .inr (.inr (.inr (.inr (.inr (.inr ⟨by simp [answersOnly], h0, _, _, (Host.Outcome.next.inj h).symm⟩)))))
  | readRequest => exact .inr (.inr (.inr (.inr (.inr (.inr ⟨by simp [answersOnly], illegal h⟩)))))
  | reserved9 => exact .inr (.inr (.inr (.inr (.inr (.inr ⟨by simp [answersOnly], illegal h⟩)))))
  | reservedA => exact .inr (.inr (.inr (.inr (.inr (.inr ⟨by simp [answersOnly], illegal h⟩)))))
  | reservedB => exact .inr (.inr (.inr (.inr (.inr (.inr ⟨by simp [answersOnly], illegal h⟩)))))
  | reservedC => exact .inr (.inr (.inr (.inr (.inr (.inr ⟨by simp [answersOnly], illegal h⟩)))))
  | reservedD => exact .inr (.inr (.inr (.inr (.inr (.inr ⟨by simp [answersOnly], illegal h⟩)))))
  | reservedE => exact .inr (.inr (.inr (.inr (.inr (.inr ⟨by simp [answersOnly], illegal h⟩)))))
  | reservedF => exact .inr (.inr (.inr (.inr (.inr (.inr ⟨by simp [answersOnly], illegal h⟩)))))

/-! ### Steps and runs -/

/-- A step on a presented command, and what it puts out (R60). -/
theorem step_command {s : State} {w : CommandWord} {bytes : List Byte} {a : SendAnswer} {rest : List Input} {i : Instr}
    (h : s.inputs = .command w bytes a :: rest) (hd : decode w bytes = .ok i) :
    step s = mapNext (takeInput rest) (exec i s) ∧ stepOutput s = outputOf i s := by
  simp only [step, stepOutput, h, hd, and_self]

/-- The answer presented with a command (R146). -/
theorem presentedAnswer_command {s : State} {w : CommandWord} {bytes : List Byte} {a : SendAnswer} {rest : List Input}
    (h : s.inputs = .command w bytes a :: rest) : presentedAnswer s = a := by simp only [presentedAnswer, h]

/-- A step whose command is performed: the block after it, and what it puts out. -/
theorem step_of_perform {s : State} {w : CommandWord} {bytes : List Byte} {a : SendAnswer} {rest : List Input} {i : Instr}
    {b : Block} {o : Output} (h : s.inputs = .command w bytes a :: rest) (hd : decode w bytes = .ok i)
    (hp : perform i a s.toBlock = .next ⟨b, o⟩) : step s = .next ⟨b, rest⟩ ∧ stepOutput s = some o := by
  rw [(step_command h hd).1, (step_command h hd).2]
  rw [← presentedAnswer_command h] at hp
  rw [(exec_of_perform hp).1, (exec_of_perform hp).2]
  exact ⟨rfl, rfl⟩

@[simp] theorem runOutputs_zero (s : State) : runOutputs 0 s = [] := rfl

/-- A run goes on from the next state, with what the first step puts out in front. -/
theorem runOutputs_succ_of_next {s t : State} (k : Nat) (h : step s = .next t) :
    runOutputs (k + 1) s = (stepOutput s).toList ++ runOutputs k t := by simp only [runOutputs, h]

/-- A run goes on from the next state. -/
theorem run_succ_of_next {s t : State} (k : Nat) (h : step s = .next t) :
    Sys2Proof.core.run (k + 1) s = Sys2Proof.core.run k t := by
  simp only [Host.Core.run, Sys2Proof.core, h]

/-- A run whose first command is performed: the rest of the run, and the rest of what it puts out. -/
theorem run_of_perform {b b' : Block} {w : CommandWord} {bytes : List Byte} {a : SendAnswer} {rest : List Input}
    {i : Instr} {o : Output} (k : Nat) (hd : decode w bytes = .ok i) (hp : perform i a b = .next ⟨b', o⟩) :
    Sys2Proof.core.run (k + 1) (⟨b, .command w bytes a :: rest⟩ : State) =
      Sys2Proof.core.run k (⟨b', rest⟩ : State) ∧
    runOutputs (k + 1) ⟨b, .command w bytes a :: rest⟩ = o :: runOutputs k ⟨b', rest⟩ := by
  obtain ⟨h1, h2⟩ := step_of_perform (s := ⟨b, .command w bytes a :: rest⟩) rfl hd hp
  exact ⟨run_succ_of_next k h1, by rw [runOutputs_succ_of_next k h1, h2]; rfl⟩

end Sys2Proof.Machine
end

