-- ==== Sys2Proof/Laws/PerInstr.lean ====
section
/-! SUPPORT. Per-instruction family: the operation code of the word every operation encodes to (spec/30_encoding.md R62). -/

namespace Sys2Proof.Laws.OpcodeInWord

/-- The word of an operation carries its code in `CW[3:0]`. -/
def Statement (i : Instr) : Prop := opField (encodeWord i) = i.opcode

theorem init : Statement .init := opField_formatN _
theorem run (t : BitVec 32) : Statement (.run t) := opField_formatT t _
theorem tickTimers (t : BitVec 32) : Statement (.tickTimers t) := opField_formatT t _
theorem notifyAck : Statement .notifyAck := opField_formatN _
theorem notifyNack : Statement .notifyNack := opField_formatN _
theorem writeRequest (a : BitVec 7) (b : Bool) (c : Byte) (d : Direction) (n : BitVec 16) (p : List Byte) : Statement (.writeRequest a b c d n p) := opField_formatW a b c d n _
theorem fetchRequest : Statement .fetchRequest := opField_formatN _
theorem pendingCount : Statement .pendingCount := opField_formatN _
theorem readRequest : Statement .readRequest := opField_formatN _
theorem reserved9 : Statement .reserved9 := opField_formatN _
theorem reservedA : Statement .reservedA := opField_formatN _
theorem reservedB : Statement .reservedB := opField_formatN _
theorem reservedC : Statement .reservedC := opField_formatN _
theorem reservedD : Statement .reservedD := opField_formatN _
theorem reservedE : Statement .reservedE := opField_formatN _
theorem reservedF : Statement .reservedF := opField_formatN _

end Sys2Proof.Laws.OpcodeInWord
end

