-- ==== Sys2Proof/Tests/Slice0.lean ====
section
/-! SUPPORT. Tests of one step each, with results taken from spec/95_test_vectors.md (V-E: encodings, V-Q: queue, V-F: FSM,
V-C: codec, P1 to P5: programs), and, for every statement that has hypotheses, a state and operands that meet them. -/

namespace Sys2Proof.Tests

open Machine

/-! ### Well-formedness: each check refuses an ill-formed term -/

theorem test_wellFormed_accepts : (Instr.writeRequest 2 true 0x10 .targetToHost 3 [1, 2, 3]).wellFormed = true := by decide
/-- `payloadComplete`: a byte short, and a byte too many. -/
theorem test_wellFormed_refuses_short_payload :
    (Instr.writeRequest 2 true 0x10 .targetToHost 3 [1, 2]).wellFormed = false := by decide
theorem test_wellFormed_refuses_long_payload :
    (Instr.writeRequest 2 true 0x10 .targetToHost 3 [1, 2, 3, 4]).wellFormed = false := by decide
/-- `payloadAbsent`: a length above the maximum with a byte. -/
theorem test_wellFormed_refuses_payload_of_oversized :
    (Instr.writeRequest 2 true 0x10 .targetToHost 257 [1]).wellFormed = false := by decide

/-! ### Decoding: one word of every operation, from V-E1 to V-E22 and the programs -/

theorem test_decode_init : decode 0x0000000000#40 [] = .ok .init := by decide
theorem test_decode_run : decode 0xFFFFFFF001#40 [] = .ok (.run 0xFFFFFFF0) := by decide
theorem test_decode_run_reserved_bits : decode 0x00000032F1#40 [] = .ok (.run 50) := by decide
theorem test_decode_tick : decode 0x0000041A02#40 [] = .ok (.tickTimers 1050) := by decide
theorem test_decode_ack : decode 0x0000000003#40 [] = .ok .notifyAck := by decide
theorem test_decode_ack_reserved_bits : decode 0xFFFFFFFFF3#40 [] = .ok .notifyAck := by decide
theorem test_decode_nack : decode 0x0000000004#40 [] = .ok .notifyNack := by decide
theorem test_decode_write_ack_bit : decode 0x0003010825#40 [1, 2, 3] =
    .ok (.writeRequest 2 true 0x10 .targetToHost 3 [1, 2, 3]) := by decide
theorem test_decode_write_dir_bit : decode 0x00041AC895#40 [1, 2, 3, 4] =
    .ok (.writeRequest 9 true 0xAC .hostToTarget 4 [1, 2, 3, 4]) := by decide
theorem test_decode_write_reserved_bits : decode 0x0007E60015#40 [0x48, 0x45, 0x4C, 0x4C, 0x4F, 0x21, 0x0A] =
    .ok (.writeRequest 1 false 0x60 .targetToHost 7 [0x48, 0x45, 0x4C, 0x4C, 0x4F, 0x21, 0x0A]) := by decide
/-- V-E11. -/
theorem test_decode_write_largest_fields : decode 0x01001FFFF5#40 (List.replicate 256 0x5A) =
    .ok (.writeRequest 127 true 0xFF .hostToTarget 256 (List.replicate 256 0x5A)) := by decide +kernel
theorem test_decode_write_zero_fields : decode 0x0000000005#40 [] =
    .ok (.writeRequest 0 false 0x00 .targetToHost 0 []) := by decide
theorem test_decode_write_oversized : decode 0xFFFF020035#40 [0xAB] =
    .ok (.writeRequest 3 false 0x20 .targetToHost 65535 []) := by decide
theorem test_decode_write_short : decode 0x0007060015#40 [0x48, 0x45] = .error .payloadMissing := by decide
theorem test_decode_fetch : decode 0x0000000006#40 [] = .ok .fetchRequest := by decide
theorem test_decode_count : decode 0x0000000007#40 [] = .ok .pendingCount := by decide
theorem test_decode_read : decode 0x0000000008#40 [] = .ok .readRequest := by decide
theorem test_decode_reserved9 : decode 0x0000000009#40 [] = .ok .reserved9 := by decide
theorem test_decode_reservedA : decode 0x000000000A#40 [] = .ok .reservedA := by decide
theorem test_decode_reservedB : decode 0x000000000B#40 [] = .ok .reservedB := by decide
theorem test_decode_reservedC : decode 0x000000000C#40 [] = .ok .reservedC := by decide
theorem test_decode_reservedD : decode 0x000000000D#40 [] = .ok .reservedD := by decide
theorem test_decode_reservedE : decode 0x000000000E#40 [] = .ok .reservedE := by decide
theorem test_decode_reservedF : decode 0x123456789F#40 [] = .ok .reservedF := by decide
theorem test_encode_write : encode (.writeRequest 5 true 0x30 .targetToHost 2 [0xDE, 0xAD]) =
    (0x0002030855#40, [0xDE, 0xAD]) := by decide
theorem test_encode_run : encodeWord (.run 1111) = 0x0000045701#40 := by decide
theorem test_decodeTableWord_tick : decodeTableWord 40 0x0000041A02 = some (.tickTimers 1050) := by decide +kernel
/-- Bits from 40 up are payload bytes, the first in bits 47..40. -/
theorem test_decodeTableWord_write : decodeTableWord 56 0x02010002060015 =
    some (.writeRequest 1 false 0x60 .targetToHost 2 [0x01, 0x02]) := by decide +kernel

/-! ### Small states -/

/-- V-E50. -/
def hello : TxRequest := ⟨1, false, 0x60, 0xAA, 7, [0x48, 0x45, 0x4C, 0x4C, 0x4F, 0x21, 0x0A]⟩
/-- V-E51. -/
def asking : TxRequest := ⟨2, true, 0x10, 0xAA, 3, [1, 2, 3]⟩
/-- The frame of V-E51, F51 of spec/95_test_vectors.md. -/
def f51 : List Byte := [0x7F, 0xFF, 0x10, 0xAA, 0x03, 0x00, 0x01, 0x02, 0x03, 0xE7, 0x52, 0x68, 0xAF, 0xDF, 0xDE]
/-- A state whose block is `b`, with nothing presented. -/
def withBlock (b : Block) : State := { toBlock := b, inputs := [] }
/-- The block right after reset, with one request stored. -/
def holding (q : TxRequest) : State := withBlock (writeRequest q State.reset.toBlock).2
/-- The block with two requests stored. -/
def holdingTwo : State := withBlock (writeRequest asking (holding hello).toBlock).2
/-- The block before its first INIT. -/
def uninitialised : State := { State.reset with initialised := false, retryCount := 3, timerActive := true }
/-- `TP(retry, timer, ev)` of spec/95_test_vectors.md section 2.3: V-E51 is the current request. -/
def inFlight (retry : BitVec 2) (timer : Option (BitVec 32)) (ack nack timeout : Bool) : State :=
  { State.reset with
    fsmState := .transmitPacket, retryCount := retry, timerActive := timer.isSome, timerStart := timer.getD 0
    evAck := ack, evNack := nack, evTimeout := timeout
    curSrc := 2, curAck := true, curType := 0x10, curDircode := 0xAA, curLen := 3
    curPayload := [1, 2, 3] ++ List.replicate 253 0 }
/-- The operation is presented, with this answer of the transport, and then the reset input. -/
def presenting (i : Instr) (a : SendAnswer) (s : State) : State := { s with inputs := presentAll [(i, a)] ++ [.rst] }
/-- An operation completes, leaves a state with this property and puts out what has that one. -/
def answers (i : Instr) (s : State) (p : Block → Bool) (out : Output → Bool) : Bool :=
  match exec i s, outputOf i s with
  | .next t, some o => p t.toBlock && out o && decide (t.inputs = s.inputs)
  | _, _ => false
/-- `TP(retry, timer, ev)` as a test of a block: the notation's fields. -/
def isInFlight (retry : BitVec 2) (timer : Option (BitVec 32)) (ack nack timeout : Bool) (b : Block) : Bool :=
  decide (b.fsmState = .transmitPacket ∧ b.retryCount = retry ∧ b.timerActive = timer.isSome ∧
    (timer.isSome → b.timerStart = timer.getD 0) ∧ b.evAck = ack ∧ b.evNack = nack ∧ b.evTimeout = timeout)
/-- PollPending, timer off, no event pending. -/
def isPolling (retry : BitVec 2) (pending : BitVec 8) (b : Block) : Bool :=
  decide (b.fsmState = .pollPending ∧ b.retryCount = retry ∧ b.timerActive = false ∧ b.evAck = false ∧
    b.evNack = false ∧ b.evTimeout = false ∧ b.pendingCount = pending)
/-- The operation returns this word with no bytes and makes no send. -/
def returned (w : ResponseWord) (o : Output) : Bool := decide (o = ⟨⟨w, []⟩, none⟩)
/-- The operation returns this word and offers this frame, which is answered so. -/
def returnedSending (w : ResponseWord) (f : List Byte) (a : SendAnswer) (o : Output) : Bool :=
  decide (o = ⟨⟨w, []⟩, some ⟨f, a⟩⟩)

/-! ### INIT (V-F25, V-F26) -/

theorem test_init_discards_everything :
    answers .init { holdingTwo with fsmState := .transmitPacket, retryCount := 1, evNack := true, stsSendBusy := true }
      (fun b => isPolling 0 0 b && decide (b.used = 0 ∧ b.rd = 0 ∧ b.wr = 0 ∧ b.stsSendBusy = false))
      (returned 0) = true := by decide
theorem test_init_before_init :
    answers .init uninitialised (fun b => b.initialised && isPolling 0 0 b) (returned 0) = true := by decide

/-! ### WRITE_REQUEST (V-Q1, V-Q12), FETCH_REQUEST (V-Q10, V-Q11), PENDING_COUNT (V-E35) -/

theorem test_write_stores_record :
    answers (.writeRequest 1 false 0x60 .targetToHost 7 [0x48, 0x45, 0x4C, 0x4C, 0x4F, 0x21, 0x0A]) State.reset
      (fun b => decide (b.wr = 12 ∧ b.used = 12 ∧ b.pendingCount = 1 ∧ b.rd = 0 ∧ ringRead b.buf 0 12 =
        some [0x01, 0x60, 0xAA, 0x07, 0x00, 0x48, 0x45, 0x4C, 0x4C, 0x4F, 0x21, 0x0A])) (returned 0) = true := by decide
/-- V-E53 through the port: host to target is stored as 0xBB (R76). -/
theorem test_write_stores_host_to_target :
    answers (.writeRequest 9 true 0xAC .hostToTarget 4 [1, 2, 3, 4]) State.reset
      (fun b => decide (ringRead b.buf 0 9 = some [0x89, 0xAC, 0xBB, 0x04, 0x00, 0x01, 0x02, 0x03, 0x04]))
      (returned 0) = true := by decide
/-- A record that wraps inside its header, as in V-Q12 with a shorter payload. -/
theorem test_write_wraps :
    answers (.writeRequest 4 true 0x20 .targetToHost 2 [0xDE, 0xAD])
      { State.reset with wr := 1020, rd := 510, used := 510 }
      (fun b => decide (ringRead b.buf 1020 4 = some [0x84, 0x20, 0xAA, 0x02] ∧
        ringRead b.buf 0 3 = some [0x00, 0xDE, 0xAD] ∧ b.wr = 3 ∧ b.used = 517)) (returned 0) = true := by decide
/-- P3 steps 2, 3 and 5: `used` is 5 with one empty request stored, 11 after a request of one byte is accepted, and 6 after
one is read, so the general sentence of R96 and the spec's own vector differ (notes/assumptions/11). -/
theorem test_used_of_P3 :
    answers (.writeRequest 1 false 0x56 .targetToHost 1 [0]) (holding ⟨2, true, 0x01, 0xAA, 0, []⟩)
      (fun b => decide (b.used = 11 ∧ b.pendingCount = 2) &&
        match readRequest b with
        | .ok (_, c) => decide (c.used = 6 ∧ c.pendingCount = 1)
        | .error _ => false) (returned 0) = true ∧
    (holding ⟨2, true, 0x01, 0xAA, 0, []⟩).used = 5 ∧ (holding ⟨2, true, 0x01, 0xAA, 0, []⟩).pendingCount = 1 := by decide
theorem test_fetch_shows_oldest :
    answers .fetchRequest holdingTwo (fun b => decide (b = holdingTwo.toBlock)) (fun o => decide
      (o = ⟨⟨0x00007AA60010#48, [0x48, 0x45, 0x4C, 0x4C, 0x4F, 0x21, 0x0A]⟩, none⟩)) = true := by decide +kernel
theorem test_fetch_empty : answers .fetchRequest State.reset (fun _ => true) (returned 3) = true := by decide
theorem test_count :
    answers .pendingCount { State.reset with pendingCount := 204 } (fun _ => true) (returned 0xCC00) = true := by decide

/-! ### RUN (V-F1b, V-F11, and the other rows through `runTick`) -/

theorem test_run_no_ack : answers (.run 7) (presenting (.run 7) .busy (holding hello))
    (fun b => isPolling 0 0 b && b.stsSendBusy)
    (returnedSending 0xD0 [0x7F, 0xFF, 0x60, 0xAA, 0x07, 0x00, 0x48, 0x45, 0x4C, 0x4C, 0x4F, 0x21, 0x0A, 0x09, 0x14, 0x74,
      0x92, 0xDF, 0xDE] .busy) = true := by decide +kernel
theorem test_run_clears_stale_events :
    answers (.run 5) (presenting (.run 5) .accepted
        { holding asking with evAck := true, evNack := true, evTimeout := true, retryCount := 2 })
      (isInFlight 0 (some 5) false false false) (returnedSending 0x30 f51 .accepted) = true := by decide +kernel

/-- A tick's block, response word and send, as V-F2 to V-F10 give them. -/
def tickGives (now : BitVec 32) (a : SendAnswer) (s : State) (p : Block → Bool) (w : ResponseWord) (x : Option Send) :
    Bool :=
  match runTick now a s.toBlock with
  | .ok y => p y.block && decide (wordRR y.resp = w ∧ y.send = x)
  | .error _ => false

/-- V-F2, V-F3, V-F5 to V-F8, V-F13: every reaction, and the priorities among them. -/
theorem test_runTick_rows :
    tickGives 120 .accepted (inFlight 0 (some 100) true false false) (isPolling 0 0) 0x80 none = true ∧
    tickGives 120 .accepted (inFlight 1 (some 100) false true false)
      (isInFlight 1 (some 120) false false false) 0x20 (some ⟨f51, .accepted⟩) = true ∧
    tickGives 200 .busy (inFlight 1 none false false true)
      (fun b => isInFlight 2 (some 200) false false false b && b.stsSendBusy) 0x40 (some ⟨f51, .busy⟩) = true ∧
    tickGives 250 .accepted (inFlight 2 none false false true) (isPolling 2 0) 0x100 none = true ∧
    tickGives 250 .accepted (inFlight 2 none true true true) (isPolling 2 0) 0x80 none = true ∧
    tickGives 250 .accepted (inFlight 2 none false true true) (isInFlight 2 (some 250) false false false) 0x20
      (some ⟨f51, .accepted⟩) = true ∧
    tickGives 120 .accepted (inFlight 0 (some 100) false false false)
      (isInFlight 0 (some 100) false false false) 0 none = true := by decide +kernel

/-! ### TICK_TIMERS (V-F14, V-F15, V-F18 to V-F20), events (V-F22, V-F24) -/

theorem test_timer_boundary : timerExpired 1049 (inFlight 0 (some 1000) false false false).toBlock = false ∧
    timerExpired 1050 (inFlight 0 (some 1000) false false false).toBlock = true := by decide
theorem test_timer_wrap : timerExpired 33 (inFlight 0 (some 4294967280) false false false).toBlock = false ∧
    timerExpired 34 (inFlight 0 (some 4294967280) false false false).toBlock = true ∧
    timerExpired 99 (inFlight 0 (some 100) false false false).toBlock = true := by decide
theorem test_tickTimers_fires : answers (.tickTimers 1050) (inFlight 0 (some 1000) false false false)
    (isInFlight 0 none false false true) (returned 0) = true := by decide
theorem test_tickTimers_waits : answers (.tickTimers 1049) (inFlight 0 (some 1000) false false false)
    (isInFlight 0 (some 1000) false false false) (returned 0) = true := by decide
theorem test_notifyAck : answers .notifyAck (inFlight 0 (some 1) false false false)
    (isInFlight 0 (some 1) true false false) (returned 0) = true := by decide
theorem test_notifyNack : answers .notifyNack (inFlight 0 (some 1) true false false)
    (isInFlight 0 (some 1) true true false) (returned 0) = true := by decide

/-! ### Codes that are refused with a status (V-E20, V-E21) -/

theorem test_readRequest : answers .readRequest (holding hello) (fun b => decide (b.pendingCount = 1 ∧ b.rd = 0))
    (returned 4) = true := by decide
theorem test_reserved9 : answers .reserved9 State.reset (fun _ => true) (returned 4) = true := by decide
theorem test_reservedA : answers .reservedA State.reset (fun _ => true) (returned 4) = true := by decide
theorem test_reservedB : answers .reservedB State.reset (fun _ => true) (returned 4) = true := by decide
theorem test_reservedC : answers .reservedC State.reset (fun _ => true) (returned 4) = true := by decide
theorem test_reservedD : answers .reservedD State.reset (fun _ => true) (returned 4) = true := by decide
theorem test_reservedE : answers .reservedE State.reset (fun _ => true) (returned 4) = true := by decide
theorem test_reservedF : answers .reservedF State.reset (fun _ => true) (returned 4) = true := by decide

/-! ### Response words (V-E38 to V-E46), records (V-E53), codec (V-C4, V-C8c, V-C9), categories -/

theorem test_wordRQ : wordRQ ⟨4, true, 0x20, 0xAA, 256, []⟩ = 0x00100AA20840#48 := by decide
theorem test_wordRR : wordRR ⟨true, .accepted, true, false⟩ = 0xB0#48 ∧ wordRR ⟨true, .busy, false, false⟩ = 0x50#48 ∧
    wordRR ⟨false, .none, false, true⟩ = 0x100#48 := by decide
theorem test_record : recordBytes ⟨9, true, 0xAC, 0xBB, 4, [1, 2, 3, 4]⟩ =
    [0x89, 0xAC, 0xBB, 0x04, 0x00, 0x01, 0x02, 0x03, 0x04] := by decide
theorem test_serialize_empty : serialize 0xAC 0xBB 0 [] =
    [0x7F, 0xFF, 0xAC, 0xBB, 0x00, 0x00, 0x50, 0x68, 0xF2, 0xEF, 0xDF, 0xDE] := by decide +kernel
theorem test_serialize : serialize 0x30 0xAA 2 [0xDE, 0xAD] =
    [0x7F, 0xFF, 0x30, 0xAA, 0x02, 0x00, 0xDE, 0xAD, 0x76, 0xDE, 0xFA, 0x92, 0xDF, 0xDE] := by decide +kernel
/-- The frame of V-C2 with one byte changed, as the table of V-C9 lists it. -/
def corrupted (k : Nat) (b : Byte) : Option RejectReason :=
  match deserialize ([0x7F, 0xFF, 0x01, 0xAA, 0x00, 0x00, 0xCF, 0x60, 0x17, 0x4D, 0xDF, 0xDE].set k b) with
  | .error r => some r
  | .ok _ => none
theorem test_corruption : [corrupted 0 0x7E, corrupted 1 0x00, corrupted 2 0x00, corrupted 3 0xBB, corrupted 4 0x01,
      corrupted 5 0x01, corrupted 5 0x02, corrupted 6 0xCE, corrupted 9 0xCD, corrupted 10 0xDE, corrupted 11 0xDF]
    = [some .badPreamble, some .badPreamble, some .crcMismatch, some .crcMismatch, some .badFrameLength,
      some .badFrameLength, some .badLength, some .crcMismatch, some .crcMismatch, some .badPostamble,
      some .badPostamble] := by decide +kernel
theorem test_categories : [0x00, 0x55, 0x56, 0xAB, 0xAC, 0xFF].map typeCategory =
    [.command, .command, .event, .event, .response, .response] := by decide

/-! ### The port -/

/-- A step on this state gives a next state and an output with these properties. -/
def steps (s : State) (p : State → Bool) (out : Option Output → Bool) : Bool :=
  match step s with
  | .next t => p t && out (stepOutput s)
  | .fault _ => false
  | .refused _ => false
theorem test_step_runs_command : steps { holding asking with inputs := [.command 0x0000000501#40 [] .busy, .rst] }
    (fun t => isInFlight 0 (some 5) false false false t.toBlock && decide (t.inputs = [.rst]))
    (fun o => decide (o = some ⟨⟨0x50, []⟩, some ⟨f51, .busy⟩⟩)) = true := by decide +kernel
theorem test_step_reset : steps { inFlight 2 none false true true with inputs := [.rst] }
    (fun t => isPolling 0 0 t.toBlock && decide (t.inputs = [])) (fun o => decide (o = none)) = true := by decide
theorem test_withFetchWord : steps (State.reset.withFetchWord 40 0x0000000003)
    (fun t => t.evAck && decide (t.inputs = [])) (fun o => decide (o = some ⟨⟨0, []⟩, none⟩)) = true := by decide +kernel
theorem test_wire : wire (sendsOf [⟨⟨0x30, []⟩, some ⟨[1], .accepted⟩⟩, ⟨⟨0, []⟩, none⟩, ⟨⟨0x40, []⟩, some ⟨[2], .busy⟩⟩]) =
    [[1]] := by decide

/-! ### States and operands that meet the hypotheses of the statements -/

theorem holds_reset : QueueHolds State.reset.toBlock [] := by constructor <;> decide
theorem holds_hello : QueueHolds (holding hello).toBlock [hello] := by constructor <;> decide
theorem holds_asking : QueueHolds (holding asking).toBlock [asking] := by constructor <;> decide
theorem holds_two : QueueHolds holdingTwo.toBlock [hello, asking] := by constructor <;> decide

/-- The block after `n` empty requests have been stored: 204 of them fill the ring (R98). -/
def filled : Nat → Block
  | 0 => State.reset.toBlock
  | n + 1 => appendRecord ⟨0, false, 0, 0xAA, 0, []⟩ (filled n)
theorem filled_initialised (n : Nat) : (filled n).initialised = true := by
  induction n with
  | zero => rfl
  | succ n ih => exact ih
theorem holds_filled (n : Nat) (h : n ≤ 204) : QueueHolds (filled n) (List.replicate n ⟨0, false, 0, 0xAA, 0, []⟩) := by
  induction n with
  | zero => exact holds_reset
  | succ n ih =>
    have hn := ih (by omega)
    have ho := hn.occupied
    simp only [totalSize, TxRequest.size, recSize_eq, List.map_replicate, List.sum_replicate] at ho
    rw [List.replicate_succ']
    refine hn.appendRecord (by decide) ?_
    simp [TxRequest.size, recSize_eq] at ho ⊢
    omega

theorem fsmInv_reset : FsmInv State.reset.toBlock := by constructor <;> decide
theorem fsmInv_inFlight : FsmInv (inFlight 2 (some 0) true true false).toBlock := by constructor <;> decide
theorem fsmInv_timedOut : FsmInv (inFlight 2 none true true true).toBlock := by constructor <;> decide
theorem inv_reset : Inv State.reset.toBlock := ⟨rfl, by decide +kernel, ⟨rfl, _, holds_reset⟩, fsmInv_reset⟩
theorem inv_two : Inv holdingTwo.toBlock := ⟨rfl, by decide +kernel, ⟨by decide, _, holds_two⟩, by constructor <;> decide⟩
theorem inv_inFlight : Inv (inFlight 2 none true true true).toBlock :=
  ⟨rfl, by decide +kernel, ⟨rfl, [], by constructor <;> decide⟩, by constructor <;> decide⟩

theorem test_witness_DecodeInvertsEncode :
    (Instr.writeRequest 127 true 0xFF .hostToTarget 256 (List.replicate 256 1)).wellFormed = true ∧
    (Instr.writeRequest 0 false 0x00 .targetToHost 257 []).wellFormed = true ∧ Instr.reservedF.wellFormed = true := by
  decide +kernel
theorem test_witness_EncodeInvertsDecode :
    decode 0x00041AC895#40 [1, 2, 3, 4, 5] = .ok (.writeRequest 9 true 0xAC .hostToTarget 4 [1, 2, 3, 4]) := by decide
theorem test_witness_ReservedCommandBitsAreIgnored :
    opField 0x0007060015#40 = opField 0x0007E60015#40 ∧
    0x0007060015#40 &&& significantBits (opField 0x0007060015#40) =
      0x0007E60015#40 &&& significantBits (opField 0x0007060015#40) ∧
    opField 0xFFFFFFFFF3#40 = opField 0x0000000003#40 ∧
    0xFFFFFFFFF3#40 &&& significantBits (opField 0xFFFFFFFFF3#40) =
      0x0000000003#40 &&& significantBits (opField 0xFFFFFFFFF3#40) := by decide
/-- The boundaries of R61 and R68: 256 bytes complete, 255 of 256, 257 with none, length 0 with none. -/
theorem test_witness_OnlyShortPayloadIsUndecodable :
    decode 0x0100060015#40 (List.replicate 255 0) = .error .payloadMissing ∧
    decode 0x0100060015#40 (List.replicate 256 0) = .ok (.writeRequest 1 false 0x60 .targetToHost 256 (List.replicate 256 0)) ∧
    decode 0x0101060015#40 [] = .ok (.writeRequest 1 false 0x60 .targetToHost 257 []) ∧
    decode 0x0000060015#40 [] = .ok (.writeRequest 1 false 0x60 .targetToHost 0 []) := by decide +kernel
theorem test_witness_StepPerformsThePresentedCommand :
    { State.reset with inputs := [.command 0x0000003201#40 [] .busy, .rst] }.inputs =
      .command 0x0000003201#40 [] .busy :: [.rst] ∧ decode 0x0000003201#40 [] = .ok (.run 50) ∧
    State.reset.inputs = [] := by decide
theorem test_witness_RstHasTheEffectOfInit : { uninitialised with inputs := [.rst] }.inputs = .rst :: [] := rfl
theorem test_witness_OperationsBeforeInitAreRefused :
    uninitialised.initialised = false ∧ Instr.readRequest ≠ .init := by decide
theorem test_witness_NothingClearsInitialised :
    (∃ t, exec .init uninitialised = .next t) ∧ (∃ t, step { uninitialised with inputs := [.rst] } = .next t) ∧
    ({ holding hello with inputs := [.command 0x01#40 [] .accepted] }.initialised = true ∧
      ∃ t, step { holding hello with inputs := [.command 0x01#40 [] .accepted] } = .next t) :=
  ⟨⟨_, rfl⟩, ⟨_, rfl⟩, rfl, ⟨_, rfl⟩⟩
/-- 257, the smallest rejected length, in a queue with no room either (V-Q7), and 65535. -/
theorem test_witness_WriteRejectsOversizedPayload :
    { State.reset with used := 1020 }.initialised = true ∧ 256 < (257#16).toNat ∧ 256 < (65535#16).toNat := by decide
/-- Four bytes left for an empty request, and 260 for one of the largest. -/
theorem test_witness_WriteRejectedForLackOfRoom :
    ({ State.reset with used := 1020 }.initialised = true ∧ (0#16).toNat ≤ 256 ∧
      1024 - { State.reset with used := 1020 }.used.toNat < 5 + (0#16).toNat) ∧
    ({ State.reset with used := 764 }.initialised = true ∧ (256#16).toNat ≤ 256 ∧
      1024 - { State.reset with used := 764 }.used.toNat < 5 + (256#16).toNat) := by decide
/-- The exact fits, one for each direction: five bytes left for an empty request to the host, 261 for one of the largest
to the target. -/
theorem test_witness_WriteStoresTheRecord :
    ({ State.reset with used := 1019, wr := 1019 }.initialised = true ∧
      (Instr.writeRequest 0 false 0 .targetToHost 0 []).wellFormed = true ∧ (0#16).toNat ≤ 256 ∧
      5 + (0#16).toNat ≤ 1024 - { State.reset with used := 1019, wr := 1019 }.used.toNat) ∧
    ({ State.reset with used := 763, wr := 763 }.initialised = true ∧
      (Instr.writeRequest 127 true 255 .hostToTarget 256 (List.replicate 256 9)).wellFormed = true ∧
      (256#16).toNat ≤ 256 ∧ 5 + (256#16).toNat ≤ 1024 - { State.reset with used := 763, wr := 763 }.used.toNat) := by
  decide +kernel
theorem test_witness_OnlyWriteRequestStoresToTheRing :
    (Instr.run 7).opcode ≠ 0x5#4 ∧ ∃ t, exec (.run 7) (holding hello) = .next t := ⟨by decide, _, rfl⟩
theorem test_witness_FetchReturnsTheOldestRequest :
    holdingTwo.initialised = true ∧ QueueHolds holdingTwo.toBlock (hello :: [asking]) := ⟨rfl, holds_two⟩
theorem test_witness_FetchOnEmptyQueueAnswersEmpty :
    State.reset.initialised = true ∧ State.reset.pendingCount = 0#8 := by decide
theorem test_witness_PendingCountReportsTheCount :
    (withBlock (filled 204)).initialised = true ∧ QueueHolds (filled 204) (List.replicate 204 ⟨0, false, 0, 0xAA, 0, []⟩) :=
  ⟨filled_initialised 204, holds_filled 204 (by decide)⟩
theorem test_witness_ReadRequestOnThePortIsIllegal : (holding hello).initialised = true ∧
    opField 0xFFFFFFFFF8#40 = 8#4 ∧ { holding hello with inputs := [.command 0xFFFFFFFFF8#40 [7] .busy] }.inputs =
      .command 0xFFFFFFFFF8#40 [7] .busy :: [] := by decide
theorem test_witness_ReservedCodesAreIllegal :
    Instr.reserved9 ∈ [Instr.reserved9, .reservedA, .reservedB, .reservedC, .reservedD, .reservedE, .reservedF] ∧
    (holding hello).initialised = true ∧ 9 ≤ (opField 0x0000000009#40).toNat ∧ 9 ≤ (opField 0x123456789F#40).toNat ∧
    { holding hello with inputs := [.command 0x0000000009#40 [7] .busy] }.inputs =
      .command 0x0000000009#40 [7] .busy :: [] := by decide
theorem test_witness_QueueFiguresAgree : QueueHolds State.reset.toBlock [] ∧
    QueueHolds (filled 204) (List.replicate 204 ⟨0, false, 0, 0xAA, 0, []⟩) :=
  ⟨holds_reset, holds_filled 204 (by decide)⟩
theorem test_witness_CapacityLaw : QueueHolds (holding hello).toBlock [hello] ∧ QueueHolds State.reset.toBlock [] ∧
    (∀ q ∈ [hello, asking], q.wf = true) ∧ (∃ s1, writeAll [hello, asking] (holding hello).toBlock = some s1) ∧
    (∃ s1, writeAll [hello, asking] State.reset.toBlock = some s1) :=
  ⟨holds_hello, holds_reset, by decide, ⟨_, rfl⟩, ⟨_, rfl⟩⟩
theorem test_witness_CapacityLawForUsedFromAnyQueue :
    QueueHolds (holding hello).toBlock [hello] ∧ (∀ q ∈ [asking], q.wf = true) ∧ writeAll [asking] (holding hello).toBlock = some holdingTwo.toBlock ∧
    ∃ out s2, readMany [asking].length holdingTwo.toBlock = some (out, s2) :=
  ⟨holds_hello, by decide, rfl, _, _, rfl⟩
/-- In between: one request that is accepted, and one of 257 bytes that is rejected. -/
theorem test_witness_PeekLawAndFifoLaw :
    (QueueHolds (holding hello).toBlock [hello] ∧
      (∀ w ∈ [asking, ⟨1, false, 0, 0xAA, 257, []⟩], w.wf = true ∨ 256 < w.payloadLength.toNat) ∧
      peekRequest (holding hello).toBlock = .ok (some hello)) ∧
    (QueueHolds State.reset.toBlock [] ∧ (∀ q ∈ [hello, asking], q.wf = true) ∧
      ∃ s1, writeAll [hello, asking] State.reset.toBlock = some s1) :=
  ⟨⟨holds_hello, by decide, by rfl⟩, holds_reset, by decide, _, rfl⟩
theorem test_witness_QueueCapacityInRequests :
    QueueHolds State.reset.toBlock [] ∧
    ((∀ x ∈ hello :: List.replicate 204 ⟨0, false, 0, 0xAA, 0, []⟩, x.wf = true) ∧
      (∀ x ∈ List.replicate 204 (⟨0, false, 0, 0xAA, 0, []⟩ : TxRequest), x.payloadLength = 0)) ∧
    (∀ x ∈ List.replicate 4 (⟨0, false, 0, 0xAA, 256, List.replicate 256 0⟩ : TxRequest),
      x.wf = true ∧ x.payloadLength = 256) := ⟨holds_reset, by decide +kernel, by decide +kernel⟩
theorem test_witness_RingRefinesTheFifoQueue :
    ((Instr.run 7).wellFormed = true ∧ QueueHolds holdingTwo.toBlock [hello, asking] ∧
      holdingTwo.fsmState = .pollPending ∧ ∃ t, exec (.run 7) holdingTwo = .next t) ∧
    ((Instr.writeRequest 2 true 0x10 .targetToHost 3 [1, 2, 3]).wellFormed = true ∧ QueueHolds (holding hello).toBlock [hello] ∧
      ∃ t, exec (.writeRequest 2 true 0x10 .targetToHost 3 [1, 2, 3]) (holding hello) = .next t) :=
  ⟨⟨rfl, holds_two, rfl, _, rfl⟩, by decide, holds_hello, _, rfl⟩
theorem test_witness_RunIdleChangesNothing :
    State.reset.initialised = true ∧ State.reset.fsmState = .pollPending ∧ State.reset.pendingCount = 0#8 := by decide
theorem test_witness_RunDequeuesAckRequest :
    (holding asking).initialised = true ∧ (holding asking).fsmState = .pollPending ∧
    QueueHolds (holding asking).toBlock (asking :: []) ∧ asking.ackRequired = true := ⟨rfl, rfl, holds_asking, rfl⟩
theorem test_witness_RunDequeuesNoAckRequest :
    holdingTwo.initialised = true ∧ holdingTwo.fsmState = .pollPending ∧
    QueueHolds holdingTwo.toBlock (hello :: [asking]) ∧ hello.ackRequired = false := ⟨rfl, rfl, holds_two, rfl⟩
theorem test_witness_RunTakesAckFirst : (inFlight 2 none true true true).initialised = true ∧
    (inFlight 2 none true true true).fsmState = .transmitPacket ∧ (inFlight 2 none true true true).evAck = true := by decide
theorem test_witness_RunResendsOnNack : (inFlight 2 none false true true).initialised = true ∧
    (inFlight 2 none false true true).fsmState = .transmitPacket ∧ (inFlight 2 none false true true).curAck = true ∧
    (inFlight 2 none false true true).evAck = false ∧ (inFlight 2 none false true true).evNack = true := by decide
/-- Also for NackStormNeverEnds, from `retry_count` 1, the last value a retry starts from. -/
theorem test_witness_RunRetriesOnTimeout : (inFlight 1 none false false true).initialised = true ∧
    (inFlight 1 none false false true).fsmState = .transmitPacket ∧ (inFlight 1 none false false true).curAck = true ∧
    (inFlight 1 none false false true).evAck = false ∧ (inFlight 1 none false false true).evNack = false ∧
    (inFlight 1 none false false true).evTimeout = true ∧ (inFlight 1 none false false true).retryCount.toNat < 2 := by
  decide
theorem test_witness_RunDropsAfterTwoRetries : (inFlight 2 none false false true).initialised = true ∧
    (inFlight 2 none false false true).fsmState = .transmitPacket ∧ (inFlight 2 none false false true).evAck = false ∧
    (inFlight 2 none false false true).evNack = false ∧ (inFlight 2 none false false true).evTimeout = true ∧
    (inFlight 2 none false false true).retryCount = 2#2 := by decide
theorem test_witness_RunWaitsForAnEvent : (inFlight 0 (some 100) false false false).initialised = true ∧
    (inFlight 0 (some 100) false false false).fsmState = .transmitPacket ∧
    (inFlight 0 (some 100) false false false).evAck = false ∧ (inFlight 0 (some 100) false false false).evNack = false ∧
    (inFlight 0 (some 100) false false false).evTimeout = false := by decide
theorem test_witness_RunResponseCombinations :
    (FsmInv State.reset.toBlock ∧ ∃ t, exec (.run 0) State.reset = .next t) ∧
    (FsmInv (inFlight 2 none true true true).toBlock ∧ ∃ t, exec (.run 0) (inFlight 2 none true true true) = .next t) :=
  ⟨⟨fsmInv_reset, _, rfl⟩, fsmInv_timedOut, _, rfl⟩
/-- For EverySendHasOneOfThreeCauses, RetryCountIsWrittenInThreePlaces, CurrentRequestChangesOnlyAtDequeue, SendBusyIsSticky
and TimeoutNeverComesEarly: an operation of each cause. -/
theorem test_witness_operations_that_complete :
    (∃ t, exec (.run 7) (holding hello) = .next t) ∧ (∃ t, exec (.run 7) (inFlight 0 (some 0) false true false) = .next t) ∧
    (∃ t, exec (.run 7) (inFlight 1 none false false true) = .next t) ∧
    (∃ t, exec (.tickTimers 50) (inFlight 0 (some 0) false false false) = .next t) ∧
    (∃ t, exec .init (inFlight 1 none false false true) = .next t) ∧ (∃ t, exec .fetchRequest (holding hello) = .next t) :=
  ⟨⟨_, rfl⟩, ⟨_, rfl⟩, ⟨_, rfl⟩, ⟨_, rfl⟩, ⟨_, rfl⟩, ⟨_, rfl⟩⟩
/-- Elapsed 50 and 49, and no timer. -/
theorem test_witness_TickTimersExaminesTheTimer :
    ((inFlight 0 (some 1000) false false false).initialised = true ∧
      (inFlight 0 (some 1000) false false false).timerActive = true ∧
      50 ≤ (1050#32 - (inFlight 0 (some 1000) false false false).timerStart).toNat ∧
      (1049#32 - (inFlight 0 (some 1000) false false false).timerStart).toNat < 50) ∧
    State.reset.timerActive = false ∧
    (∃ t, exec (.tickTimers 1050) (inFlight 0 (some 1000) false false false) = .next t) :=
  ⟨by decide, rfl, _, rfl⟩
/-- `e` at 0, 49, 50, 2^32 - 50 and 2^32 - 1 with a start near the wrap. -/
theorem test_witness_ElapsedTimeIsModular :
    (inFlight 0 (some 4294967280) false false false).initialised = true ∧
    (inFlight 0 (some 4294967280) false false false).timerActive = true ∧
    (0 < 2 ^ 32 ∧ 49 < 2 ^ 32 ∧ 50 < 2 ^ 32 ∧ 2 ^ 32 - 1 < 2 ^ 32) ∧ (1 ≤ 2 ^ 32 - 50 ∧ 2 ^ 32 - 50 ≤ 2 ^ 32 - 50) := by
  decide
theorem test_witness_TimeoutNeverComesEarly :
    (∃ t, exec (.tickTimers 50) (inFlight 0 (some 0) false false false) = .next t ∧
      (inFlight 0 (some 0) false false false).evTimeout = false ∧ t.evTimeout = true) ∧
    (∃ t, exec (.run 7) (inFlight 0 (some 0) false true false) = .next t ∧ t.timerActive = true) :=
  ⟨⟨_, rfl, rfl, rfl⟩, _, rfl, rfl⟩
theorem test_witness_NotifyRaisesItsEvent : (inFlight 0 (some 0) false false false).initialised = true ∧
    State.reset.initialised = true := by decide
theorem test_witness_NackStormNeverEnds : (inFlight 0 (some 0) false false false).initialised = true ∧
    (inFlight 0 (some 0) false false false).fsmState = .transmitPacket ∧
    (inFlight 0 (some 0) false false false).curAck = true ∧ (inFlight 0 (some 0) false false false).evAck = false ∧
    { inFlight 0 (some 0) false false false with
        inputs := [.command 0x0000000004#40 [] .busy, .command 0x0000000901#40 [] .busy, .rst] }.inputs =
      presentAll (nackRounds [(9, .busy)]) ++ [.rst] := by decide
/-- The times of P3, for SilenceDropsAfterThreeSends and TwoTimeoutsThenAckCompletes: every window is exactly 50. -/
theorem test_witness_SilenceDropsAfterThreeSends : (holding asking).initialised = true ∧
    (holding asking).fsmState = .pollPending ∧ QueueHolds (holding asking).toBlock (asking :: []) ∧ asking.ackRequired = true ∧
    50 ≤ (50#32 - 0#32).toNat ∧ 50 ≤ (100#32 - 50#32).toNat ∧ 50 ≤ (150#32 - 100#32).toNat ∧
    { holding asking with
        inputs := [.command 0x0000000001#40 [] .busy, .command 0x0000003202#40 [] .busy, .command 0x0000003201#40 [] .busy,
          .command 0x0000006402#40 [] .busy, .command 0x0000006401#40 [] .busy, .command 0x0000009602#40 [] .busy,
          .command 0x0000009601#40 [] .busy] }.inputs =
      presentAll [(.run 0, .busy), (.tickTimers 50, .busy), (.run 50, .busy), (.tickTimers 100, .busy), (.run 100, .busy),
        (.tickTimers 150, .busy), (.run 150, .busy)] ++ [] :=
  ⟨rfl, rfl, holds_asking, rfl, by decide, by decide, by decide, by decide⟩
theorem test_witness_IdleBlockSendsNothing : Idle State.reset.toBlock ∧ (Instr.run 5).opcode ≠ 0x5#4 ∧
    (∃ t, exec (.run 5) State.reset = .next t) ∧ ∃ t, exec .notifyAck State.reset = .next t :=
  ⟨⟨rfl, rfl⟩, by decide, ⟨_, rfl⟩, _, rfl⟩
theorem test_witness_FrameLayout : ([] : List Byte).length = (0#16).toNat ∧
    (List.replicate 256 (7 : Byte)).length = (256#16).toNat := by decide +kernel
theorem test_witness_DeserializeInvertsSerialize :
    ((0#16).toNat ≤ 256 ∧ ([] : List Byte).length = (0#16).toNat ∧ ((0xAA : Byte) = 0xAA ∨ (0xAA : Byte) = 0xBB)) ∧
    ((256#16).toNat ≤ 256 ∧ (List.replicate 256 (7 : Byte)).length = (256#16).toNat ∧
      ((0xBB : Byte) = 0xAA ∨ (0xBB : Byte) = 0xBB)) := by decide +kernel
/-- The frame of V-C2: offsets 0, 1, 2, 3, 4, 5, 6, 9, 10 and 11 with the bytes of V-C9. -/
theorem test_witness_SingleByteCorruptionIsRejected :
    (0#16).toNat ≤ 256 ∧ ([] : List Byte).length = (0#16).toNat ∧ ((0xAA : Byte) = 0xAA ∨ (0xAA : Byte) = 0xBB) ∧
    ∀ x ∈ [(0, (0x7E : Byte)), (1, 0x00), (2, 0x00), (3, 0xBB), (4, 0x01), (5, 0x02), (6, 0xCE), (9, 0xCD), (10, 0xDE),
      (11, 0xDF)], x.1 < 12 + (0#16).toNat ∧ (serialize 0x01 0xAA 0 [])[x.1]? ≠ some x.2 := by decide +kernel
/-- For RUN the answer presented is the same, for NOTIFY_ACK it is not. -/
theorem test_witness_OutputsNeverFeedBack :
    ((presenting (.run 7) .busy (holding hello)).toBlock = (holding hello).toBlock ∧
      presentedAnswer (presenting (.run 7) .busy (holding hello)) =
        presentedAnswer { holding hello with inputs := [.command 0x0000000701#40 [] .busy] }) ∧
    (presenting .notifyAck .busy (holding hello)).toBlock = (holding hello).toBlock ∧
      Instr.notifyAck.opcode ≠ 0x1#4 := ⟨⟨rfl, rfl⟩, rfl, by decide⟩
theorem test_witness_StatusViewShowsTheState : State.reset.toBlock.used.toNat ≤ 1024 ∧
    { State.reset.toBlock with used := 1024 }.used.toNat ≤ 1024 := by decide
/-- Two states that differ in a byte outside the occupied region, in `cur_src`, in the stopped timer's start and in
`sts_send_busy`. -/
theorem test_witness_UnspecifiedValuesAreNeverRead :
    (Instr.run 7).wellFormed = true ∧ QueueHolds (holding hello).toBlock [hello] ∧
    AgreeOnWhatIsRead (holding hello).toBlock
      { (holding hello).toBlock with
        buf := (holding hello).buf ++ [(500, 0x5A)], curSrc := 5, curLen := 9, timerStart := 7, stsSendBusy := true } :=
  ⟨rfl, holds_hello, by constructor <;> decide⟩
theorem test_witness_StepKeepsTheInvariants :
    Inv { inFlight 2 none true true true with inputs := [.command 0x0000000501#40 [] .busy] }.toBlock ∧
    ∃ t, step { inFlight 2 none true true true with inputs := [.command 0x0000000501#40 [] .busy] } = .next t :=
  ⟨inv_inFlight, _, rfl⟩
theorem test_witness_InitEstablishesTheInvariants : Shape uninitialised.toBlock ∧
    Shape { uninitialised with inputs := [.rst] }.toBlock ∧ { uninitialised with inputs := [.rst] }.inputs = .rst :: [] :=
  ⟨⟨rfl, by decide +kernel⟩, ⟨rfl, by decide +kernel⟩, rfl⟩
theorem test_witness_InvariantsRuleOutFaults : Inv holdingTwo.toBlock := inv_two
/-- Step 2 of P5: `presentAll` presents what R61 writes. -/
theorem test_presentAll : presentAll [(.writeRequest 5 true 0x30 .targetToHost 2 [0xDE, 0xAD], .accepted)] =
    [.command 0x0002030855#40 [0xDE, 0xAD] .accepted] := by decide
theorem test_witness_InitFirstRunsNeverFault :
    (Shape uninitialised.toBlock ∧
      initFirst [.command 0x0000000000#40 [] .accepted, .command 0x0000000006#40 [] .accepted] = true) ∧
    initFirst [.rst] = true := ⟨⟨⟨rfl, by decide +kernel⟩, by decide⟩, by decide⟩

/-! ### The duties of the environment (R178) can be met together -/

/-- `rst`, and then for ever TICK_TIMERS and RUN at each millisecond: the control loop of R82. -/
def loopForever (n : Nat) : Input :=
  if n = 0 then .rst
  else if n % 2 = 1 then .command (formatT (BitVec.ofNat 32 (n / 2)) 0x2) [] .accepted
  else .command (formatT (BitVec.ofNat 32 (n / 2 - 1)) 0x1) [] .accepted
/-- The millisecond count when the `n`-th input of `loopForever` is presented. -/
def loopClock (n : Nat) : Nat := (n - 1) / 2

theorem operationOf_formatT_tick (t : BitVec 32) (a : SendAnswer) :
    operationOf (.command (formatT t 0x2) [] a) = some (.tickTimers t) := by
  simp [operationOf, decode]
theorem operationOf_formatT_run (t : BitVec 32) (a : SendAnswer) :
    operationOf (.command (formatT t 0x1) [] a) = some (.run t) := by
  simp [operationOf, decode]
theorem loopForever_tick (k : Nat) : operationOf (loopForever (2 * k + 1)) = some (.tickTimers (BitVec.ofNat 32 k)) := by
  rw [loopForever, if_neg (by omega), if_pos (by omega), operationOf_formatT_tick, show (2 * k + 1) / 2 = k by omega]
theorem loopForever_run (k : Nat) : operationOf (loopForever (2 * k + 2)) = some (.run (BitVec.ofNat 32 k)) := by
  rw [loopForever, if_neg (by omega), if_neg (by omega), operationOf_formatT_run, show (2 * k + 2) / 2 - 1 = k by omega]
/-- Every input of the loop is the first, a TICK_TIMERS or a RUN. -/
theorem loop_cases (n : Nat) : n = 0 ∨ (∃ k, n = 2 * k + 1) ∨ ∃ k, n = 2 * k + 2 := by
  rcases Nat.even_or_odd' n with ⟨k, rfl | rfl⟩
  · cases k with
    | zero => exact .inl rfl
    | succ k => exact .inr (.inr ⟨k, by omega⟩)
  · exact .inr (.inl ⟨k, rfl⟩)
theorem test_witness_EnvironmentDuties : EnvironmentDuties loopForever loopClock (fun _ => none) [] [] where
  init_first := rfl
  run_forever n := ⟨2 * n + 2, by omega, _, loopForever_run n⟩
  tick_each_millisecond :=
    ⟨fun n => ⟨2 * ((n + 1) / 2) + 1, by omega, ⟨_, loopForever_tick _⟩, by simp only [loopClock]; omega⟩,
      fun n => ⟨n + 3, by omega, by simp only [loopClock]; omega⟩⟩
  tick_before_run n h := by
    rcases loop_cases n with rfl | ⟨k, rfl⟩ | ⟨k, rfl⟩
    · exact absurd h (by rintro ⟨t, ht⟩; cases ht)
    · exact absurd h (by rintro ⟨t, ht⟩; rw [loopForever_tick] at ht; cases ht)
    · exact ⟨2 * k + 1, by omega, ⟨_, loopForever_tick k⟩, fun j h1 h2 => by omega⟩
  one_monotonic_clock := by
    refine ⟨fun m n h => by simp only [loopClock]; omega, fun n t h => ?_⟩
    rcases loop_cases n with rfl | ⟨k, rfl⟩ | ⟨k, rfl⟩
    · rcases h with h | h <;> cases h
    · rw [loopForever_tick] at h
      rw [loopClock, show (2 * k + 1 - 1) / 2 = k by omega]
      rcases h with h | h <;> cases h; rfl
    · rw [loopForever_run] at h
      rw [loopClock, show (2 * k + 2 - 1) / 2 = k by omega]
      rcases h with h | h <;> cases h; rfl
  notify_validated n := by
    rcases loop_cases n with rfl | ⟨k, rfl⟩ | ⟨k, rfl⟩
    · exact ⟨fun h => (by cases h), fun h => (by cases h)⟩
    · rw [loopForever_tick]; exact ⟨fun h => (by cases h), fun h => (by cases h)⟩
    · rw [loopForever_run]; exact ⟨fun h => (by cases h), fun h => (by cases h)⟩
  answer_every_send n w p a _ := by cases a <;> simp
  writes_whole n w p a h hd := by
    have ho : operationOf (loopForever n) = none := by simp [h, operationOf, hd]
    rcases loop_cases n with rfl | ⟨k, rfl⟩ | ⟨k, rfl⟩
    · cases h
    · rw [loopForever_tick] at ho; cases ho
    · rw [loopForever_run] at ho; cases ho
/-- Duty 3 is broken by an environment that, after `rst`, presents three inputs every 1000 ms, whatever they are. -/
theorem test_duty_tick_late (presented : Nat → Input) :
    ¬ dutyTickEachMillisecond presented (fun n => 1000 * ((n - 1) / 3)) := fun h => by
  obtain ⟨m, h1, -, h2⟩ := h.1 3
  simp only at h2
  omega
/-- A frame that duty 5 lets through: host to target, type code 0xAC. The frame of V-C2, target to host, it does not. -/
theorem test_mayNotify :
    mayNotify [0x7F, 0xFF, 0xAC, 0xBB, 0x00, 0x00, 0x50, 0x68, 0xF2, 0xEF, 0xDF, 0xDE] = true ∧
    mayNotify [0x7F, 0xFF, 0x01, 0xAA, 0x00, 0x00, 0xCF, 0x60, 0x17, 0x4D, 0xDF, 0xDE] = false := by decide +kernel
/-- Duty 5 is met by an ACK for a frame of that kind, and broken by an ACK for no frame. -/
theorem test_duty_notify :
    dutyNotifyValidated (fun _ => .command 0x0000000003#40 [] .accepted)
      (fun _ => some [0x7F, 0xFF, 0xAC, 0xBB, 0x00, 0x00, 0x50, 0x68, 0xF2, 0xEF, 0xDF, 0xDE]) [0xAC] [] ∧
    ¬ dutyNotifyValidated (fun _ => .command 0x0000000003#40 [] .accepted) (fun _ => none) [0xAC] [] :=
  ⟨fun _ => ⟨fun _ => ⟨_, ⟨0xAC, 0xBB, 0, []⟩, rfl, by decide +kernel, by decide +kernel, by decide⟩, fun h => by cases h⟩,
    fun h => by obtain ⟨f, p, h, -⟩ := (h 0).1 rfl; cases h⟩

end Sys2Proof.Tests
end

section
/-! PROOFS. What a step and an operation can do and what they leave alone, and the statements about single registers, about
the time before INIT, about outputs and about the status view that follow (spec/10_state.md R18, R19, R23 to R28). -/

namespace Sys2Proof.Machine

/-! ### Commands and steps -/

/-- The payload of a decoded WRITE_REQUEST is complete, and absent when its length is over the maximum (R61, R68). -/
theorem decodeWrite_wellFormed {w : CommandWord} {bytes : List Byte} {i : Instr} (h : decodeWrite w bytes = .ok i) :
    i.wellFormed = true := by
  rcases decodeWrite_cases w bytes with ⟨hlen, e⟩ | ⟨-, -, e⟩ | ⟨hlen, hbytes, e⟩ <;> rw [e] at h
  · cases h
    simp [Instr.wellFormed, payloadComplete, payloadAbsent, hlen]
  · cases h
  · cases h
    simp [Instr.wellFormed, payloadComplete, payloadAbsent, hbytes, hlen]

/-- The decoder gives only operations that some command expresses. -/
theorem decode_wellFormed {w : CommandWord} {bytes : List Byte} {i : Instr} (h : decode w bytes = .ok i) :
    i.wellFormed = true := by
  unfold decode at h
  split at h
  case h_6 => exact decodeWrite_wellFormed h
  all_goals cases h; rfl

/-- What the block hands to the queue for a well-formed WRITE_REQUEST of an accepted length is a storable request. -/
theorem requestOf_wf {src : BitVec 7} {ack : Bool} {typ : Byte} {dir : Direction} {len : BitVec 16} {p : List Byte}
    (h : (Instr.writeRequest src ack typ dir len p).wellFormed = true) (hlen : len.toNat ≤ 256) :
    (requestOf src ack typ dir len p).wf = true := by
  have hp : p.length = len.toNat := by
    simp only [Instr.wellFormed, payloadComplete, Bool.and_eq_true, decide_eq_true_eq] at h
    exact h.1 hlen
  exact (TxRequest.wf_iff _).2 ⟨hlen, hp, by cases dir <;> rfl⟩

/-- Everything a step can be (R60, R175, R190). -/
theorem step_cases (s : State) :
    (s.inputs = [] ∧ step s = .next s) ∨
    (∃ rest, s.inputs = .rst :: rest ∧ step s = .next (takeReset rest s)) ∨
    (∃ w bytes a rest, s.inputs = .command w bytes a :: rest ∧ step s = .refused .payloadMissing) ∨
    (∃ w bytes a rest i, s.inputs = .command w bytes a :: rest ∧ decode w bytes = .ok i ∧
      step s = mapNext (takeInput rest) (exec i s)) := by
  cases hi : s.inputs with
  | nil => exact .inl ⟨rfl, by simp only [step, hi]⟩
  | cons x rest =>
    cases x with
    | rst => exact .inr (.inl ⟨rest, rfl, by simp only [step, hi]⟩)
    | command w bytes a =>
      cases hd : decode w bytes with
      | error e => exact .inr (.inr (.inl ⟨w, bytes, a, rest, rfl, by cases e; simp only [step, hi, hd]⟩))
      | ok i => exact .inr (.inr (.inr ⟨w, bytes, a, rest, i, rfl, hd, (step_command hi hd).1⟩))

/-- The block after a step: that of the state, the reset one, or the one a decoded, hence well-formed, operation leaves. -/
theorem step_eq_next {s t : State} (h : step s = .next t) :
    t.toBlock = s.toBlock ∨ t.toBlock = initialise s.toBlock ∨
    ∃ i a e, i.wellFormed = true ∧ perform i a s.toBlock = .next e ∧ t.toBlock = e.block := by
  rcases step_cases s with ⟨-, hs⟩ | ⟨rest, -, hs⟩ | ⟨w, bytes, a, rest, -, hs⟩ | ⟨w, bytes, a, rest, i, -, hd, hs⟩ <;>
    rw [hs] at h
  · cases h; exact .inl rfl
  · cases h; exact .inr (.inl rfl)
  · cases h
  · cases hx : exec i s with
    | next u =>
      obtain ⟨e, hp, -, rfl⟩ := exec_eq_next.1 hx
      rw [hx] at h
      cases h
      exact .inr (.inr ⟨i, _, e, decode_wellFormed hd, hp, rfl⟩)
    | fault f => rw [hx] at h; cases h
    | refused r => rw [hx] at h; cases h

/-! ### What operations leave alone -/

/-- TICK_TIMERS' look at the timer, as one update (R120). -/
theorem examineTimer_eq (t : BitVec 32) (b : Block) : examineTimer t b =
    { b with evTimeout := b.evTimeout || timerExpired t b, timerActive := b.timerActive && !timerExpired t b } := by
  unfold examineTimer
  cases timerExpired t b <;> simp [fireTimeout]

/-- WRITE_REQUEST leaves the block as it is or appends the record (R91). -/
theorem writeRequest_block (q : TxRequest) (b : Block) :
    (writeRequest q b).2 = b ∨ (writeRequest q b).2 = appendRecord q b := by
  rcases writeRequest_cases q b with ⟨-, e⟩ | ⟨-, -, e⟩ | ⟨-, -, e⟩ <;> simp [e]

/-- Everything a tick that completes can have done (R112, R124): nothing, a dequeue, the way back to `PollPending` by an ACK
or a drop, a resend by a NACK, a retry by a timeout. -/
theorem runTick_ok_cases {t : BitVec 32} {a : SendAnswer} {b : Block} {x : Tick} (h : runTick t a b = .ok x) :
    ((b.fsmState = .pollPending → b.pendingCount = 0#8) ∧ x = .start b) ∨
    (b.fsmState = .pollPending ∧ b.pendingCount ≠ 0#8 ∧ ∃ q, decodeRecord b.buf b.rd = some q ∧
      x = goTransmit t a ⟨loadCurrent q (dropRecord q b), ⟨true, .none, false, false⟩, none⟩) ∨
    (b.fsmState = .transmitPacket ∧ ∃ o, x = goPoll o (.start b)) ∨
    (b.fsmState = .transmitPacket ∧ x = goTransmit t a (.start b)) ∨
    (b.fsmState = .transmitPacket ∧ b.evAck = false ∧ b.evNack = false ∧ b.evTimeout = true ∧ b.retryCount.toNat < 2 ∧
      x = goTransmit t a (.start { b with retryCount := b.retryCount + 1#2 })) := by
  rcases runTick_cases t a b with ⟨-, hp, e⟩ | ⟨hf, hp, q, hd, e⟩ | ⟨-, -, -, e⟩ | ⟨hf, -, e⟩ | ⟨hf, -, -, e⟩ |
      ⟨hf, ha, hn, ht, e⟩ | ⟨hf, -, -, -, e⟩ <;> rw [e] at h <;> cases h
  · exact .inl ⟨fun _ => hp, rfl⟩
  · exact .inr (.inl ⟨hf, hp, q, hd, rfl⟩)
  · exact .inr (.inr (.inl ⟨hf, _, rfl⟩))
  · exact .inr (.inr (.inr (.inl ⟨hf, rfl⟩)))
  · rcases onTimeout_cases t a (.start b) with ⟨hr, e⟩ | ⟨-, e⟩ <;> rw [e]
    · exact .inr (.inr (.inr (.inr ⟨hf, ha, hn, ht, hr, rfl⟩)))
    · exact .inr (.inr (.inl ⟨hf, _, rfl⟩))
  · exact .inl ⟨by simp [hf], rfl⟩

/-- `c` holds what `b` holds in the registers that only INIT and RUN write. -/
structure SameRunRegisters (b c : Block) : Prop where
  rd : c.rd = b.rd
  fsmState : c.fsmState = b.fsmState
  retryCount : c.retryCount = b.retryCount
  curSrc : c.curSrc = b.curSrc
  curAck : c.curAck = b.curAck
  curType : c.curType = b.curType
  curDircode : c.curDircode = b.curDircode
  curLen : c.curLen = b.curLen
  curPayload : c.curPayload = b.curPayload
  stsSendBusy : c.stsSendBusy = b.stsSendBusy
  initialised : c.initialised = b.initialised

theorem SameRunRegisters.refl (b : Block) : SameRunRegisters b b := by constructor <;> rfl

theorem SameRunRegisters.examineTimer (t : BitVec 32) (b : Block) : SameRunRegisters b (examineTimer t b) := by
  rw [examineTimer_eq]; constructor <;> rfl

theorem SameRunRegisters.writeRequest (q : TxRequest) (b : Block) : SameRunRegisters b (writeRequest q b).2 := by
  rcases writeRequest_block q b with e | e <;> rw [e] <;> constructor <;> rfl

/-- An operation that completes is INIT, or a RUN, or leaves the registers of these two alone and makes no send. -/
theorem perform_init_run_or_same {i : Instr} {a : SendAnswer} {b : Block} {e : Effect} (h : perform i a b = .next e) :
    (i = .init ∧ e.block = initialise b) ∨
    (∃ now x, i = .run now ∧ b.initialised = true ∧ runTick now a b = .ok x ∧ e.block = x.block ∧
      e.output.send = x.send) ∨
    (i ≠ .init ∧ b.initialised = true ∧ SameRunRegisters b e.block ∧ e.output.send = none) := by
  rcases perform_cases h with ⟨rfl, rfl⟩ | ⟨now, x, rfl, h0, hx, rfl⟩ | ⟨now, rfl, h0, rfl⟩ | ⟨rfl, h0, rfl⟩ |
      ⟨rfl, h0, rfl⟩ | ⟨src, ack, typ, dir, len, p, rfl, h0, rfl⟩ | ⟨hi, h0, w, p, rfl⟩
  · exact .inl ⟨rfl, rfl⟩
  · exact .inr (.inl ⟨now, x, rfl, h0, hx, rfl, rfl⟩)
  · exact .inr (.inr ⟨nofun, h0, .examineTimer now b, rfl⟩)
  · exact .inr (.inr ⟨nofun, h0, by constructor <;> rfl, rfl⟩)
  · exact .inr (.inr ⟨nofun, h0, by constructor <;> rfl, rfl⟩)
  · exact .inr (.inr ⟨nofun, h0, .writeRequest _ b, rfl⟩)
  · refine .inr (.inr ⟨?_, h0, .refl b, rfl⟩)
    rintro rfl
    simp [answersOnly] at hi

/-- The `cur_*` registers and the read cursor stay through a RUN that is no dequeue, the retry count through one that is no
retry either (R114, R119). -/
theorem runTick_registers {t : BitVec 32} {a : SendAnswer} {b : Block} {x : Tick} (h : runTick t a b = .ok x) :
    (b.fsmState = .pollPending ∧ b.pendingCount ≠ 0#8 ∧ x.block.retryCount = 0#2) ∨
    ((x.block.curSrc = b.curSrc ∧ x.block.curAck = b.curAck ∧ x.block.curType = b.curType ∧
        x.block.curDircode = b.curDircode ∧ x.block.curLen = b.curLen ∧ x.block.curPayload = b.curPayload ∧
        x.block.rd = b.rd) ∧
      (x.block.retryCount = b.retryCount ∨
        b.fsmState = .transmitPacket ∧ b.evTimeout = true ∧ b.evAck = false ∧ b.evNack = false ∧
          b.retryCount.toNat < 2 ∧ x.block.retryCount = b.retryCount + 1)) := by
  rcases runTick_ok_cases h with ⟨-, rfl⟩ | ⟨hf, hp, q, -, rfl⟩ | ⟨-, o, rfl⟩ | ⟨-, rfl⟩ | ⟨hf, ha, hn, ht, hr, rfl⟩
  · simp
  · exact .inl ⟨hf, hp, by rw [goTransmit_eq]; rfl⟩
  · simp [goPoll_eq]
  · simp [goTransmit_eq]
  · simp [goTransmit_eq, hf, ha, hn, ht, hr]

/-- A tick makes a send with the answer presented, or none, and `sts_send_busy` notes a Busy answer (R115). -/
theorem runTick_sendBusy {t : BitVec 32} {a : SendAnswer} {b : Block} {x : Tick} (h : runTick t a b = .ok x) :
    x.block.stsSendBusy = (b.stsSendBusy || decide (x.send.map Send.answer = some .busy)) := by
  rcases runTick_ok_cases h with ⟨-, rfl⟩ | ⟨-, -, q, -, rfl⟩ | ⟨-, o, rfl⟩ | ⟨-, rfl⟩ | ⟨-, -, -, -, -, rfl⟩
  · simp
  · simp [goTransmit_eq]
  · simp [goPoll_eq]
  · simp [goTransmit_eq]
  · simp [goTransmit_eq]

/-- A tick stores nothing to the ring and leaves the write cursor and `initialised` alone. -/
theorem runTick_frame {t : BitVec 32} {a : SendAnswer} {b : Block} {x : Tick} (h : runTick t a b = .ok x) :
    x.block.buf = b.buf ∧ x.block.wr = b.wr ∧ x.block.initialised = b.initialised := by
  rcases runTick_ok_cases h with ⟨-, rfl⟩ | ⟨-, -, q, -, rfl⟩ | ⟨-, o, rfl⟩ | ⟨-, rfl⟩ | ⟨-, -, -, -, -, rfl⟩
  · simp
  · simp [goTransmit_eq]
  · simp [goPoll_eq]
  · simp [goTransmit_eq]
  · simp [goTransmit_eq]

/-- Every operation that completes leaves an initialised block (R24). -/
theorem perform_initialised {i : Instr} {a : SendAnswer} {b : Block} {e : Effect} (h : perform i a b = .next e) :
    e.block.initialised = true := by
  rcases perform_init_run_or_same h with ⟨-, hb⟩ | ⟨now, x, -, h0, hx, hb, -⟩ | ⟨-, h0, hs, -⟩
  · rw [hb]; rfl
  · rw [hb, (runTick_frame hx).2.2, h0]
  · rw [hs.initialised, h0]

/-- Before INIT or `rst` every other operation is refused (R192). -/
theorem perform_uninitialised {i : Instr} (a : SendAnswer) {b : Block} (h : b.initialised = false) (hi : i ≠ .init) :
    perform i a b = .refused .notInitialised := by
  cases i
  case init => exact absurd rfl hi
  all_goals exact whenInitialised_false h _

/-- Only RUN is given the transport's answer (R127, R146). -/
theorem perform_answer_irrelevant {i : Instr} (h : i.opcode ≠ 0x1#4) (a a' : SendAnswer) (b : Block) :
    perform i a b = perform i a' b := by
  cases i
  case run => exact absurd rfl h
  all_goals rfl

/-- Settling in two states differs in the inputs alone. -/
theorem settle_eq_mapNext (s t : State) (p : Performed) :
    settle t p = mapNext (fun u => { u with inputs := t.inputs }) (settle s p) := by
  cases p <;> rfl

/-! ### The statements about single registers and about what decides an operation -/

/-- Settles O11: every operation that completes leaves an initialised block, and so does `rst`. -/
theorem nothingClearsInitialised : Obligations.NothingClearsInitialised := by
  unfold Obligations.NothingClearsInitialised
  refine ⟨fun s t h => ?_, fun s t rest hi h => ?_, fun s t h0 h => ?_⟩
  · obtain ⟨e, hp, -, rfl⟩ := exec_eq_next.1 h
    exact perform_initialised hp
  · simp only [step, hi, Host.Outcome.next.injEq] at h
    subst h
    rfl
  · rcases step_eq_next h with hb | hb | ⟨i, a, e, -, hp, hb⟩ <;> rw [hb]
    · exact h0
    · rfl
    · exact perform_initialised hp

/-- Settles O37. -/
theorem retryCountIsWrittenInThreePlaces : Obligations.RetryCountIsWrittenInThreePlaces := by
  unfold Obligations.RetryCountIsWrittenInThreePlaces
  intro i s t h
  obtain ⟨e, hp, -, rfl⟩ := exec_eq_next.1 h
  rcases perform_init_run_or_same hp with ⟨rfl, hb⟩ | ⟨now, x, rfl, -, hx, hb, -⟩ | ⟨-, -, hs, -⟩
  · exact .inr (.inl ⟨rfl, by rw [hb]; rfl⟩)
  · rw [hb]
    rcases runTick_registers hx with ⟨hf, hc, hr⟩ | ⟨-, hr | ⟨hf, ht, ha, hn, hlt, hr⟩⟩
    · exact .inr (.inr (.inl ⟨now, rfl, hf, hc, hr⟩))
    · exact .inl hr
    · exact .inr (.inr (.inr ⟨now, rfl, hf, ht, ha, hn, hlt, hr⟩))
  · exact .inl hs.retryCount

/-- Settles O38. -/
theorem currentRequestChangesOnlyAtDequeue : Obligations.CurrentRequestChangesOnlyAtDequeue := by
  unfold Obligations.CurrentRequestChangesOnlyAtDequeue
  intro i s t h
  obtain ⟨e, hp, -, rfl⟩ := exec_eq_next.1 h
  rcases perform_init_run_or_same hp with ⟨rfl, hb⟩ | ⟨now, x, rfl, -, hx, hb, -⟩ | ⟨-, -, hs, -⟩
  · right; simp [hb]
  · rw [hb]
    rcases runTick_registers hx with ⟨hf, hc, -⟩ | ⟨⟨h1, h2, h3, h4, h5, h6, hrd⟩, -⟩
    · exact .inl ⟨now, rfl, hf, hc⟩
    · exact .inr ⟨h1, h2, h3, h4, h5, h6, fun _ => hrd⟩
  · exact .inr ⟨hs.curSrc, hs.curAck, hs.curType, hs.curDircode, hs.curLen, hs.curPayload, fun _ => hs.rd⟩

/-- Settles O39. -/
theorem sendBusyIsSticky : Obligations.SendBusyIsSticky := by
  unfold Obligations.SendBusyIsSticky
  intro i s t h
  obtain ⟨e, hp, ho, rfl⟩ := exec_eq_next.1 h
  refine ⟨e.output, ho, ?_⟩
  rcases perform_init_run_or_same hp with ⟨rfl, hb⟩ | ⟨now, x, rfl, -, hx, hb, hsend⟩ | ⟨hi, -, hs, hsend⟩
  · exact ⟨fun _ => by rw [hb]; rfl, fun hi => absurd rfl hi⟩
  · exact ⟨nofun, fun _ => by rw [hb, hsend]; exact runTick_sendBusy hx⟩
  · exact ⟨fun e => absurd e hi, fun _ => by rw [hsend]; simpa using hs.stsSendBusy⟩

/-- Settles O54: `exec` and `outputOf` come from one effect, which is a function of the block and, for RUN, the answer. -/
theorem outputsNeverFeedBack : Obligations.OutputsNeverFeedBack := by
  unfold Obligations.OutputsNeverFeedBack
  intro i s t hb ha
  have hp : perform i (presentedAnswer t) t.toBlock = perform i (presentedAnswer s) s.toBlock := by
    rw [hb]
    rcases ha with ha | ha
    · rw [ha]
    · exact perform_answer_irrelevant ha _ _ _
  refine ⟨?_, by rw [outputOf, outputOf, hp]⟩
  rw [exec_eq_settle, exec_eq_settle, hp]
  exact settle_eq_mapNext s t _

/-- Settles O8. -/
theorem resetStateIsEmptyAndIdle : Obligations.ResetStateIsEmptyAndIdle := by
  unfold Obligations.ResetStateIsEmptyAndIdle
  decide

/-- Settles O10. -/
theorem operationsBeforeInitAreRefused : Obligations.OperationsBeforeInitAreRefused := by
  unfold Obligations.OperationsBeforeInitAreRefused
  intro i s h0 hi
  have hp := perform_uninitialised (presentedAnswer s) h0 hi
  exact ⟨by rw [exec_eq_settle, hp]; rfl, by rw [outputOf, hp]; rfl⟩

/-- Settles O53: the free space is below 2^11, so its 11-bit output is exact. -/
theorem statusViewShowsTheState : Obligations.StatusViewShowsTheState := by
  unfold Obligations.StatusViewShowsTheState
  intro b _
  have hfsm : fsmStateBit b.fsmState = if b.fsmState = .pollPending then 0 else 1 := by cases b.fsmState <;> rfl
  have hfree : (BitVec.ofNat 11 (freeSpace b)).toNat = 1024 - b.used.toNat := by
    simp only [freeSpace, Config.ringUsable, BitVec.toNat_ofNat]
    omega
  have hev : ∀ a n t : Bool, (BitVec.ofBool t ++ BitVec.ofBool n ++ BitVec.ofBool a : BitVec 3).getLsbD 0 = a ∧
      (BitVec.ofBool t ++ BitVec.ofBool n ++ BitVec.ofBool a : BitVec 3).getLsbD 1 = n ∧
      (BitVec.ofBool t ++ BitVec.ofBool n ++ BitVec.ofBool a : BitVec 3).getLsbD 2 = t := by decide
  exact ⟨hfsm, rfl, rfl, hfree, rfl, hev _ _ _, rfl⟩

end Sys2Proof.Machine
end

section
/-! PROOFS. The queue in the ring and the invariants of spec/10_state.md R16 and R27: the ring refines the FIFO queue, every
step keeps the invariants, INIT and `rst` establish them, and no step faults where they hold. -/

namespace Sys2Proof.Machine

/-! ### The queue under each operation -/

/-- INIT empties the queue, whatever the block held (R111). -/
theorem queueHolds_initialise (b : Block) : QueueHolds (initialise b) [] := by
  constructor <;> simp [totalSize]

theorem QueueHolds.examineTimer {b : Block} {reqs : List TxRequest} (h : QueueHolds b reqs) (t : BitVec 32) :
    QueueHolds (examineTimer t b) reqs := by
  rw [examineTimer_eq]; exact h.congr rfl rfl rfl rfl rfl

/-- Entering `TransmitPacket` leaves the queue alone. -/
theorem QueueHolds.goTransmit {x : Tick} {reqs : List TxRequest} (h : QueueHolds x.block reqs) (t : BitVec 32)
    (a : SendAnswer) : QueueHolds (goTransmit t a x).block reqs := by
  rw [goTransmit_eq]; exact h.congr rfl rfl rfl rfl rfl

/-- Loading the current request leaves the queue alone. -/
theorem QueueHolds.loadCurrent {b : Block} {reqs : List TxRequest} (h : QueueHolds b reqs) (q : TxRequest) :
    QueueHolds (loadCurrent q b) reqs := h.congr rfl rfl rfl rfl rfl

/-- Where something is stored, the oldest request is what the record at the read cursor decodes to. -/
theorem QueueHolds.exists_head {b : Block} {reqs : List TxRequest} (h : QueueHolds b reqs) (hp : b.pendingCount ≠ 0#8) :
    ∃ q rest, reqs = q :: rest ∧ decodeRecord b.buf b.rd = some q := by
  cases reqs with
  | nil => exact absurd (h.eq_nil_iff.1 rfl) hp
  | cons q rest => exact ⟨q, rest, rfl, h.decode_head⟩

/-- A request that the ring decodes to is the oldest one. -/
theorem QueueHolds.eq_cons_of_decode {b : Block} {reqs : List TxRequest} {q : TxRequest} (h : QueueHolds b reqs)
    (hp : b.pendingCount ≠ 0#8) (hd : decodeRecord b.buf b.rd = some q) : ∃ rest, reqs = q :: rest := by
  obtain ⟨q', rest, rfl, hd'⟩ := h.exists_head hp
  rw [hd] at hd'
  cases hd'
  exact ⟨rest, rfl⟩

/-- A RUN in `PollPending` takes the oldest request out, a RUN in `TransmitPacket` none (R112, R114). -/
theorem QueueHolds.runTick {t : BitVec 32} {a : SendAnswer} {b : Block} {x : Tick} {reqs : List TxRequest}
    (h : QueueHolds b reqs) (hx : runTick t a b = .ok x) :
    QueueHolds x.block (fifoAfter (.run t) b.fsmState reqs) := by
  rcases runTick_ok_cases hx with ⟨hidle, rfl⟩ | ⟨hf, hp, q, hd, rfl⟩ | ⟨hf, o, rfl⟩ | ⟨hf, rfl⟩ | ⟨hf, -, -, -, -, rfl⟩
  · cases hf : b.fsmState with
    | pollPending =>
      obtain rfl := h.eq_nil_iff.2 (hidle hf)
      exact h
    | transmitPacket => exact h
  · obtain ⟨rest, rfl⟩ := h.eq_cons_of_decode hp hd
    rw [hf]
    exact (h.dropRecord.loadCurrent q).goTransmit t a
  · rw [hf, goPoll_eq]; exact h.congr rfl rfl rfl rfl rfl
  · rw [hf]; exact QueueHolds.goTransmit (x := .start b) h t a
  · have hretry : QueueHolds { b with retryCount := b.retryCount + 1#2 } reqs := h.congr rfl rfl rfl rfl rfl
    rw [hf]; exact QueueHolds.goTransmit (x := .start _) hretry t a

/-- The ring takes a WRITE_REQUEST exactly when the abstract queue does, and answers OK exactly then (R91). -/
theorem QueueHolds.writeRequest {src : BitVec 7} {ack : Bool} {typ : Byte} {dir : Direction} {len : BitVec 16}
    {p : List Byte} {b : Block} {reqs : List TxRequest} (fsm : FsmState) (h : QueueHolds b reqs)
    (hi : (Instr.writeRequest src ack typ dir len p).wellFormed = true) :
    QueueHolds (writeRequest (requestOf src ack typ dir len p) b).2
      (fifoAfter (.writeRequest src ack typ dir len p) fsm reqs) ∧
    ((writeRequest (requestOf src ack typ dir len p) b).1 = .ok ↔
      fifoAfter (.writeRequest src ack typ dir len p) fsm reqs ≠ reqs) := by
  have ho := h.occupied
  have hsize : (requestOf src ack typ dir len p).size = recSize len.toNat := rfl
  have hlen : (requestOf src ack typ dir len p).payloadLength = len := rfl
  rcases writeRequest_cases (requestOf src ack typ dir len p) b with ⟨hbig, e⟩ | ⟨hle, hroom, e⟩ | ⟨hle, hroom, e⟩ <;>
    rw [hlen] at *
  · have hno : ¬ (len.toNat ≤ 256 ∧ totalSize reqs + recSize len.toNat ≤ 1024) := by omega
    simpa [e, fifoAfter, hno] using h
  · have hno : ¬ (len.toNat ≤ 256 ∧ totalSize reqs + recSize len.toNat ≤ 1024) := by omega
    simpa [e, fifoAfter, hno] using h
  · have hpos : 5 ≤ recSize len.toNat := by rw [recSize_eq]; omega
    have hyes : len.toNat ≤ 256 ∧ totalSize reqs + recSize len.toNat ≤ 1024 := by omega
    simpa [e, fifoAfter, hyes] using h.appendRecord (requestOf_wf hi hle) hroom

/-- Every operation takes the ring from the abstract queue to the abstract queue after it (R56). -/
theorem QueueHolds.perform {i : Instr} {a : SendAnswer} {b : Block} {e : Effect} {reqs : List TxRequest}
    (hi : i.wellFormed = true) (h : QueueHolds b reqs) (hp : perform i a b = .next e) :
    QueueHolds e.block (fifoAfter i b.fsmState reqs) := by
  rcases perform_cases hp with ⟨rfl, rfl⟩ | ⟨now, x, rfl, -, hx, rfl⟩ | ⟨now, rfl, -, rfl⟩ | ⟨rfl, -, rfl⟩ |
      ⟨rfl, -, rfl⟩ | ⟨src, ack, typ, dir, len, p, rfl, -, rfl⟩ | ⟨hi, -, w, p, rfl⟩
  · exact queueHolds_initialise b
  · exact h.runTick hx
  · exact h.examineTimer now
  · exact h.congr rfl rfl rfl rfl rfl
  · exact h.congr rfl rfl rfl rfl rfl
  · exact (h.writeRequest _ hi).1
  · have hsame : fifoAfter i b.fsmState reqs = reqs := by
      simp only [answersOnly, List.mem_cons, List.not_mem_nil, or_false] at hi
      rcases hi with rfl | rfl | rfl | rfl | rfl | rfl | rfl | rfl | rfl | rfl <;> rfl
    rw [hsame]
    exact h

/-- The only status whose word is that of OK (R65). -/
theorem wordRS_eq_zero_iff (x : Status) : wordRS x = 0#48 ↔ x = .ok := by
  cases x <;> decide

/-- What a WRITE_REQUEST that completes puts out is its status. -/
theorem outputOf_writeRequest {s : State} (h : s.initialised = true) (src : BitVec 7) (ack : Bool) (typ : Byte)
    (dir : Direction) (len : BitVec 16) (p : List Byte) :
    outputOf (.writeRequest src ack typ dir len p) s =
      some ⟨⟨wordRS (writeRequest (requestOf src ack typ dir len p) s.toBlock).1, []⟩, none⟩ := by
  rw [outputOf, perform, performWriteRequest, whenInitialised_true h]
  rfl

/-- Settles O26. -/
theorem ringRefinesTheFifoQueue : Obligations.RingRefinesTheFifoQueue := by
  unfold Obligations.RingRefinesTheFifoQueue
  intro i s t reqs hi hq h
  obtain ⟨e, hp, ho, rfl⟩ := exec_eq_next.1 h
  refine ⟨hq.perform hi hp, fun hop => ?_, ?_⟩
  · cases i
    case writeRequest src ack typ dir len p =>
      have h0 := (whenInitialised_eq_next.1 hp).1
      rw [outputOf_writeRequest h0, ← (hq.writeRequest s.fsmState hi).2, ← wordRS_eq_zero_iff]
      simp
    all_goals exact absurd hop (by simp [Instr.opcode])
  · rintro now q rest rfl hf rfl
    obtain ⟨-, x, hx, rfl⟩ := performRun_eq_next.1 hp
    rw [runTick_dequeue now _ hf hq] at hx
    cases hx
    obtain ⟨-, hlen, -⟩ := (TxRequest.wf_iff q).1 (hq.requests_wf q List.mem_cons_self)
    rw [goTransmit_eq]
    exact ⟨rfl, rfl, rfl, rfl, rfl, by rw [← hlen]; exact List.take_left⟩

/-- Settles O21: a record has at least five bytes. -/
theorem queueFiguresAgree : Obligations.QueueFiguresAgree := by
  unfold Obligations.QueueFiguresAgree
  intro b reqs h
  have hlen := length_le_totalSize h.requests_wf
  have hfits : b.used.toNat ≤ 1024 := h.fits
  have hused := h.occupied
  have hcount := h.count
  refine ⟨?_, hfits, by omega⟩
  rw [← h.eq_nil_iff]
  constructor
  · rintro rfl
    exact BitVec.eq_of_toNat_eq hused
  · intro e
    rw [e, BitVec.toNat_zero] at hused
    exact List.eq_nil_of_length_eq_zero (by omega)

/-! ### Each part of the invariants -/

/-- No operation brings the ring's memory out of its canonical form. -/
theorem perform_keeps_memory_wf {i : Instr} {a : SendAnswer} {b : Block} {e : Effect} (hm : Memory.wf b.buf = true)
    (hp : perform i a b = .next e) : Memory.wf e.block.buf = true := by
  rcases perform_cases hp with ⟨rfl, rfl⟩ | ⟨now, x, rfl, -, hx, rfl⟩ | ⟨now, rfl, -, rfl⟩ | ⟨rfl, -, rfl⟩ |
      ⟨rfl, -, rfl⟩ | ⟨src, ack, typ, dir, len, p, rfl, -, rfl⟩ | ⟨-, -, w, p, rfl⟩
  · exact hm
  · obtain ⟨hbuf, -, -⟩ := runTick_frame hx
    simpa only [hbuf] using hm
  · rw [examineTimer_eq]; exact hm
  · exact hm
  · exact hm
  · rcases writeRequest_block (requestOf src ack typ dir len p) b with e | e <;> simp only [e]
    · exact hm
    · exact Memory.wf_ringWrite _ _ hm
  · exact hm

/-- Loading a storable request keeps the width of `cur_payload`. -/
theorem loadCurrent_payload_width {b : Block} {q : TxRequest} (hq : q.wf = true) (hb : b.curPayload.length = 256) :
    (loadCurrent q b).curPayload.length = 256 := by
  obtain ⟨hlen, hpay, -⟩ := (TxRequest.wf_iff q).1 hq
  simp only [loadCurrent_curPayload, List.length_append, List.length_drop]
  omega

/-- No operation on a queue of whole requests changes the width of `cur_payload`. -/
theorem perform_keeps_payload_width {i : Instr} {a : SendAnswer} {b : Block} {e : Effect} {reqs : List TxRequest}
    (hq : QueueHolds b reqs) (hb : b.curPayload.length = 256) (hp : perform i a b = .next e) :
    e.block.curPayload.length = 256 := by
  rcases perform_init_run_or_same hp with ⟨-, he⟩ | ⟨now, x, -, -, hx, he, -⟩ | ⟨-, -, hs, -⟩
  · rw [he]; exact hb
  · rw [he]
    rcases runTick_ok_cases hx with ⟨-, rfl⟩ | ⟨-, hp, q, hd, rfl⟩ | ⟨-, o, rfl⟩ | ⟨-, rfl⟩ | ⟨-, -, -, -, -, rfl⟩
    · exact hb
    · obtain ⟨rest, rfl⟩ := hq.eq_cons_of_decode hp hd
      rw [goTransmit_eq]
      exact loadCurrent_payload_width (b := dropRecord q b) (hq.requests_wf q List.mem_cons_self) hb
    · rw [goPoll_eq]; exact hb
    · rw [goTransmit_eq]; exact hb
    · rw [goTransmit_eq]; exact hb
  · rw [hs.curPayload]; exact hb

/-- The FSM invariants read only the FSM's own registers. -/
theorem FsmInv.congr {b c : Block} (h : FsmInv b) (hr : c.retryCount = b.retryCount) (hf : c.fsmState = b.fsmState)
    (ha : c.curAck = b.curAck) (hl : c.curLen = b.curLen) (hd : c.curDircode = b.curDircode)
    (ht : c.timerActive = b.timerActive) (he : c.evTimeout = b.evTimeout) : FsmInv c where
  retry_le := by rw [hr]; exact h.retry_le
  poll_timer := by rw [hf, ht]; exact h.poll_timer
  timer_on := by rw [ht, hf, ha, he]; exact h.timer_on
  transmit_ack := by rw [hf, ha]; exact h.transmit_ack
  one_of := by rw [hf, ht, he]; exact h.one_of
  transmit_packet := by rw [hf, hl, hd]; exact h.transmit_packet
  timeout_transmit := by rw [he, hf]; exact h.timeout_transmit

/-- A block in `PollPending` with the timer off and no timeout pending needs only its retry count in range. -/
theorem fsmInv_of_polling {b : Block} (hr : b.retryCount.toNat ≤ 2) (hf : b.fsmState = .pollPending)
    (ht : b.timerActive = false) (he : b.evTimeout = false) : FsmInv b := by
  constructor <;> simp [hr, hf, ht, he]

theorem fsmInv_initialise (b : Block) : FsmInv (initialise b) := fsmInv_of_polling (by simp) rfl rfl rfl

theorem fsmInv_goPoll (o : Leaving) {x : Tick} (hr : x.block.retryCount.toNat ≤ 2) : FsmInv (goPoll o x).block :=
  fsmInv_of_polling hr rfl rfl rfl

/-- Sending a current request of a valid length and direction leads to a block that meets the FSM invariants: in
`TransmitPacket` with the timer on, or back in `PollPending`. -/
theorem fsmInv_goTransmit (t : BitVec 32) (a : SendAnswer) {x : Tick} (hr : x.block.retryCount.toNat ≤ 2)
    (hl : x.block.curLen.toNat ≤ 256) (hd : assignedDircode x.block.curDircode = true) :
    FsmInv (goTransmit t a x).block := by
  cases hack : x.block.curAck with
  | true => rw [goTransmit_ack t a hack]; constructor <;> simp [hr, hl, hd, hack]
  | false => rw [goTransmit_noAck t a hack]; exact fsmInv_of_polling hr rfl rfl rfl

/-- TICK_TIMERS trades a timer that has run out for a pending timeout (R120). -/
theorem FsmInv.examineTimer {b : Block} (h : FsmInv b) (t : BitVec 32) : FsmInv (examineTimer t b) := by
  rcases examineTimer_cases t b with ⟨hon, -, e⟩ | ⟨-, e⟩ <;> rw [e]
  · obtain ⟨hf, hack, -⟩ := h.timer_on hon
    exact ⟨h.retry_le, fun _ => rfl, nofun, fun _ => hack, fun _ => rfl, h.transmit_packet, fun _ => hf⟩
  · exact h

/-- A RUN keeps the FSM invariants: a dequeued request is a stored one, and a retry starts below two. -/
theorem FsmInv.runTick {t : BitVec 32} {a : SendAnswer} {b : Block} {x : Tick} {reqs : List TxRequest}
    (h : FsmInv b) (hq : QueueHolds b reqs) (hx : runTick t a b = .ok x) : FsmInv x.block := by
  rcases runTick_ok_cases hx with ⟨-, rfl⟩ | ⟨-, hp, q, hd, rfl⟩ | ⟨-, o, rfl⟩ | ⟨hf, rfl⟩ | ⟨hf, -, -, -, hr, rfl⟩
  · exact h
  · obtain ⟨rest, rfl⟩ := hq.eq_cons_of_decode hp hd
    obtain ⟨hl, -, hdir⟩ := (TxRequest.wf_iff q).1 (hq.requests_wf q List.mem_cons_self)
    exact fsmInv_goTransmit t a (by simp) hl hdir
  · exact fsmInv_goPoll o h.retry_le
  · obtain ⟨hl, hdir⟩ := h.transmit_packet hf
    exact fsmInv_goTransmit t a h.retry_le hl hdir
  · obtain ⟨hl, hdir⟩ := h.transmit_packet hf
    refine fsmInv_goTransmit t a ?_ hl hdir
    simp only [Tick.start_block, BitVec.toNat_add, BitVec.toNat_ofNat]
    omega

/-- Every operation on a queue of whole requests keeps the FSM invariants (R27). -/
theorem FsmInv.perform {i : Instr} {a : SendAnswer} {b : Block} {e : Effect} {reqs : List TxRequest} (h : FsmInv b)
    (hq : QueueHolds b reqs) (hp : perform i a b = .next e) : FsmInv e.block := by
  rcases perform_cases hp with ⟨rfl, rfl⟩ | ⟨now, x, rfl, -, hx, rfl⟩ | ⟨now, rfl, -, rfl⟩ | ⟨rfl, -, rfl⟩ |
      ⟨rfl, -, rfl⟩ | ⟨src, ack, typ, dir, len, p, rfl, -, rfl⟩ | ⟨-, -, w, p, rfl⟩
  · exact fsmInv_initialise b
  · exact h.runTick hq hx
  · exact h.examineTimer now
  · exact h.congr rfl rfl rfl rfl rfl rfl rfl
  · exact h.congr rfl rfl rfl rfl rfl rfl rfl
  · rcases writeRequest_block (requestOf src ack typ dir len p) b with e | e <;> simp only [e]
    · exact h
    · exact h.congr rfl rfl rfl rfl rfl rfl rfl
  · exact h

/-! ### The invariants together -/

/-- What INIT and `rst` write meets the invariants (R16, R27, R111). -/
theorem inv_initialise {b : Block} (h : Shape b) : Inv (initialise b) where
  initialised := rfl
  payload_width := h.2
  queue := ⟨h.1, [], queueHolds_initialise b⟩
  fsm := fsmInv_initialise b

theorem Inv.shape {b : Block} (h : Inv b) : Shape b := ⟨h.queue.1, h.payload_width⟩

/-- Every operation that some command expresses keeps the invariants. -/
theorem Inv.perform {i : Instr} {a : SendAnswer} {b : Block} {e : Effect} (hi : i.wellFormed = true) (h : Inv b)
    (hp : perform i a b = .next e) : Inv e.block := by
  obtain ⟨-, hwidth, ⟨hm, reqs, hq⟩, hfsm⟩ := h
  exact ⟨perform_initialised hp, perform_keeps_payload_width hq hwidth hp,
    ⟨perform_keeps_memory_wf hm hp, _, hq.perform hi hp⟩, hfsm.perform hq hp⟩

/-- A guarded operation faults only by its meaning. -/
theorem whenInitialised_eq_fault {b : Block} {p : Performed} {f : Fault} (h : whenInitialised b p = .fault f) :
    p = .fault f := by
  unfold whenInitialised at h
  split at h
  · exact h
  · cases h

/-- The one fault needs a stored record that does not decode (R92, R93). -/
theorem perform_fault {i : Instr} {a : SendAnswer} {b : Block} {f : Fault} (h : perform i a b = .fault f) :
    b.pendingCount ≠ 0#8 ∧ decodeRecord b.buf b.rd = none := by
  cases i
  case init => cases h
  case run now =>
    have hrun := whenInitialised_eq_fault h
    rcases runTick_cases now a b with ⟨-, -, e⟩ | ⟨-, -, q, -, e⟩ | ⟨-, hp, hd, -⟩ | ⟨-, -, e⟩ | ⟨-, -, -, e⟩ |
        ⟨-, -, -, -, e⟩ | ⟨-, -, -, -, e⟩
    case inr.inr.inl => exact ⟨hp, hd⟩
    all_goals rw [e] at hrun; cases hrun
  case fetchRequest =>
    have hfetch := whenInitialised_eq_fault h
    rcases peekRequest_cases b with ⟨-, e⟩ | ⟨-, q, -, e⟩ | ⟨hp, hd, -⟩
    · rw [e] at hfetch; cases hfetch
    · rw [e] at hfetch; cases hfetch
    · exact ⟨hp, hd⟩
  all_goals cases whenInitialised_eq_fault h

/-- No operation faults on a ring that holds whole requests. -/
theorem QueueHolds.perform_ne_fault {b : Block} {reqs : List TxRequest} (h : QueueHolds b reqs) (i : Instr)
    (a : SendAnswer) (f : Fault) : Machine.perform i a b ≠ .fault f := by
  intro hp
  obtain ⟨hc, hd⟩ := perform_fault hp
  obtain ⟨q, rest, -, hd'⟩ := h.exists_head hc
  rw [hd] at hd'
  cases hd'

/-- Settles O56. -/
theorem stepKeepsTheInvariants : Obligations.StepKeepsTheInvariants := by
  unfold Obligations.StepKeepsTheInvariants
  intro s t h hs
  rcases step_eq_next hs with hb | hb | ⟨i, a, e, hi, hp, hb⟩ <;> rw [hb]
  · exact h
  · exact inv_initialise h.shape
  · exact h.perform hi hp

/-- Settles O57: the reset state is one that INIT leaves as it is. -/
theorem resetSatisfiesTheInvariants : Obligations.ResetSatisfiesTheInvariants :=
  inv_initialise (b := State.reset.toBlock) ⟨rfl, List.length_replicate⟩

/-- Settles O58. -/
theorem initEstablishesTheInvariants : Obligations.InitEstablishesTheInvariants := by
  unfold Obligations.InitEstablishesTheInvariants
  intro s h
  refine ⟨⟨⟨initialise s.toBlock, s.inputs⟩, rfl, inv_initialise h⟩, fun rest hi => ?_⟩
  exact ⟨takeReset rest s, by simp only [step, hi], inv_initialise h⟩

/-- Settles O59. -/
theorem invariantsRuleOutFaults : Obligations.InvariantsRuleOutFaults := by
  unfold Obligations.InvariantsRuleOutFaults
  intro s f h hs
  obtain ⟨-, reqs, hq⟩ := h.queue
  rcases step_cases s with ⟨-, e⟩ | ⟨rest, -, e⟩ | ⟨w, bytes, a, rest, -, e⟩ | ⟨w, bytes, a, rest, i, -, -, e⟩ <;>
    rw [e] at hs
  · cases hs
  · cases hs
  · cases hs
  · rw [exec_eq_settle] at hs
    cases hp : perform i (presentedAnswer s) s.toBlock with
    | next e => rw [hp] at hs; cases hs
    | fault g => exact hq.perform_ne_fault _ _ _ hp
    | refused r => rw [hp] at hs; cases hs

end Sys2Proof.Machine
end

section
/-! PROOFS. What no operation reads: two blocks that agree on everything an operation may read stay so, with the same
response and the same send (spec/93_implementation_defined.md U2, U11; spec/10_state.md R19, R22, R23). -/

namespace Sys2Proof.Machine

/-! ### Agreement and the queue -/

/-- Blocks that agree hold the same requests. -/
theorem AgreeOnWhatIsRead.queueHolds {b c : Block} {reqs : List TxRequest} (h : AgreeOnWhatIsRead b c)
    (hq : QueueHolds b reqs) : QueueHolds c reqs where
  requests_wf := hq.requests_wf
  count := by rw [h.pendingCount]; exact hq.count
  occupied := by rw [h.used]; exact hq.occupied
  fits := by rw [h.used]; exact hq.fits
  cursors := by rw [h.wr, h.rd, h.used]; exact hq.cursors
  contents := by rw [h.occupied]; exact hq.contents

/-- Rings that hold the same requests show the same occupied bytes. -/
theorem QueueHolds.occupied_eq {b c : Block} {reqs : List TxRequest} (hb : QueueHolds b reqs) (hc : QueueHolds c reqs) :
    ringRead c.buf c.rd c.used.toNat = ringRead b.buf b.rd b.used.toNat := by
  rw [hb.contents, hc.contents]

/-- Agreement on the whole current request, in either FSM state: what `AgreeOnWhatIsRead` asks in `TransmitPacket`. -/
def AgreeOnCurrent (b c : Block) : Prop :=
  c.curAck = b.curAck ∧ c.curType = b.curType ∧ c.curDircode = b.curDircode ∧ c.curLen = b.curLen ∧
    c.curPayload.take c.curLen.toNat = b.curPayload.take b.curLen.toNat

/-- The frame shows nothing but the current request. -/
theorem AgreeOnCurrent.currentFrame {b c : Block} (h : AgreeOnCurrent b c) : currentFrame c = currentFrame b := by
  obtain ⟨-, htype, hdir, hlen, hpay⟩ := h
  rw [Machine.currentFrame, Machine.currentFrame, hpay, htype, hdir, hlen]

/-! ### Agreement through each update -/

theorem AgreeOnWhatIsRead.initialise (b c : Block) : AgreeOnWhatIsRead (initialise b) (initialise c) := by
  constructor <;> simp

/-- Taking out the request that both rings hold oldest keeps the agreement. -/
theorem AgreeOnWhatIsRead.dropRecord {b c : Block} {q : TxRequest} {reqs : List TxRequest} (h : AgreeOnWhatIsRead b c)
    (hq : QueueHolds b (q :: reqs)) : AgreeOnWhatIsRead (dropRecord q b) (dropRecord q c) := by
  have hocc := hq.dropRecord.occupied_eq (h.queueHolds hq).dropRecord
  exact { h with
    rd := by simp only [dropRecord_rd, h.rd]
    used := by simp only [dropRecord_used, h.used]
    pendingCount := by simp only [dropRecord_pendingCount, h.pendingCount]
    occupied := hocc }

/-- Storing an accepted request in both rings keeps the agreement. -/
theorem AgreeOnWhatIsRead.appendRecord {b c : Block} {q : TxRequest} {reqs : List TxRequest} (h : AgreeOnWhatIsRead b c)
    (hq : QueueHolds b reqs) (hwf : q.wf = true) (hroom : q.size ≤ 1024 - b.used.toNat) :
    AgreeOnWhatIsRead (appendRecord q b) (appendRecord q c) := by
  have hocc := (hq.appendRecord hwf hroom).occupied_eq ((h.queueHolds hq).appendRecord hwf (by rw [h.used]; exact hroom))
  exact { h with
    wr := by simp only [appendRecord_wr, h.wr]
    used := by simp only [appendRecord_used, h.used]
    pendingCount := by simp only [appendRecord_pendingCount, h.pendingCount]
    occupied := hocc }

/-- Loading the same request leaves nothing of the old one to be read. -/
theorem AgreeOnWhatIsRead.loadCurrent {b c : Block} {q : TxRequest} (h : AgreeOnWhatIsRead b c) (hwf : q.wf = true) :
    AgreeOnWhatIsRead (loadCurrent q b) (loadCurrent q c) ∧ AgreeOnCurrent (loadCurrent q b) (loadCurrent q c) := by
  obtain ⟨-, hlen, -⟩ := (TxRequest.wf_iff q).1 hwf
  have hcur : AgreeOnCurrent (Machine.loadCurrent q b) (Machine.loadCurrent q c) := by
    simp [AgreeOnCurrent, ← hlen]
  exact ⟨{ h with retryCount := rfl, current := fun _ => hcur }, hcur⟩

/-- The timer's start is read only while the timer is on. -/
theorem AgreeOnWhatIsRead.timerExpired {b c : Block} (h : AgreeOnWhatIsRead b c) (t : BitVec 32) :
    timerExpired t c = timerExpired t b := by
  unfold Machine.timerExpired
  rw [h.timerActive]
  cases hon : b.timerActive with
  | false => rfl
  | true => rw [h.timerStart hon]

theorem AgreeOnWhatIsRead.examineTimer {b c : Block} (h : AgreeOnWhatIsRead b c) (t : BitVec 32) :
    AgreeOnWhatIsRead (examineTimer t b) (examineTimer t c) := by
  have hexp := h.timerExpired t
  rw [examineTimer_eq, examineTimer_eq, hexp]
  exact { h with
    evTimeout := by simp only [h.evTimeout]
    timerActive := by simp only [h.timerActive]
    timerStart := fun hon => h.timerStart (Bool.and_eq_true_iff.1 hon).1 }

theorem AgreeOnWhatIsRead.raiseAck {b c : Block} (h : AgreeOnWhatIsRead b c) :
    AgreeOnWhatIsRead (raiseAck b) (raiseAck c) := { h with evAck := rfl }

theorem AgreeOnWhatIsRead.raiseNack {b c : Block} (h : AgreeOnWhatIsRead b c) :
    AgreeOnWhatIsRead (raiseNack b) (raiseNack c) := { h with evNack := rfl }

/-! ### Agreement through a RUN -/

/-- Two ticks that show the same: blocks that agree, the same response record and the same send. -/
structure AgreeTicks (x y : Tick) : Prop where
  block : AgreeOnWhatIsRead x.block y.block
  resp : y.resp = x.resp
  send : y.send = x.send

theorem AgreeOnWhatIsRead.start {b c : Block} (h : AgreeOnWhatIsRead b c) : AgreeTicks (.start b) (.start c) :=
  ⟨h, rfl, rfl⟩

theorem AgreeTicks.goPoll {x y : Tick} (h : AgreeTicks x y) (o : Leaving) : AgreeTicks (goPoll o x) (goPoll o y) := by
  rw [goPoll_eq, goPoll_eq, h.resp, h.send]
  refine ⟨?_, rfl, rfl⟩
  exact { h.block with
    fsmState := rfl, evAck := rfl, evNack := rfl, evTimeout := rfl, timerActive := rfl
    timerStart := nofun, current := nofun }

/-- Two ticks that agree on the current request too send the same frame and start the timer at the same time. -/
theorem AgreeTicks.goTransmit {x y : Tick} (h : AgreeTicks x y) (hcur : AgreeOnCurrent x.block y.block) (t : BitVec 32)
    (a : SendAnswer) : AgreeTicks (goTransmit t a x) (goTransmit t a y) := by
  have hframe := hcur.currentFrame
  have hack : y.block.curAck = x.block.curAck := hcur.1
  rw [goTransmit_eq, goTransmit_eq, h.resp, hframe, hack]
  refine ⟨?_, rfl, rfl⟩
  exact { h.block with
    fsmState := rfl, evAck := rfl, evNack := rfl, evTimeout := rfl, timerActive := rfl
    timerStart := fun hon => (if_pos hon).trans (if_pos hon).symm
    current := fun _ => hcur }

theorem AgreeTicks.onTimeout {x y : Tick} (h : AgreeTicks x y) (hcur : AgreeOnCurrent x.block y.block) (t : BitVec 32)
    (a : SendAnswer) : AgreeTicks (onTimeout t a x) (onTimeout t a y) := by
  have hretry := h.block.retryCount
  rcases onTimeout_cases t a x with ⟨hx, ex⟩ | ⟨hx, ex⟩ <;> rcases onTimeout_cases t a y with ⟨hy, ey⟩ | ⟨hy, ey⟩
  · rw [ex, ey]
    refine AgreeTicks.goTransmit ?_ ?_ t a
    · exact ⟨{ h.block with retryCount := by simp only [hretry] }, h.resp, h.send⟩
    · exact hcur
  · rw [hretry] at hy; omega
  · rw [hretry] at hy; omega
  · rw [ex, ey]; exact h.goPoll .dropped

/-- A RUN on blocks that agree completes in both, and its ticks show the same. -/
theorem AgreeOnWhatIsRead.runTick {b c : Block} {reqs : List TxRequest} (h : AgreeOnWhatIsRead b c)
    (hq : QueueHolds b reqs) (t : BitVec 32) (a : SendAnswer) :
    ∃ x y, runTick t a b = .ok x ∧ runTick t a c = .ok y ∧ AgreeTicks x y := by
  cases hf : b.fsmState with
  | pollPending =>
    have hfc : c.fsmState = .pollPending := h.fsmState.trans hf
    cases reqs with
    | nil =>
      have hb := hq.eq_nil_iff.1 rfl
      have hc := (h.queueHolds hq).eq_nil_iff.1 rfl
      exact ⟨_, _, by simp only [Machine.runTick, hf, hb, if_true], by simp only [Machine.runTick, hfc, hc, if_true],
        h.start⟩
    | cons q rest =>
      refine ⟨_, _, runTick_dequeue t a hf hq, runTick_dequeue t a hfc (h.queueHolds hq), ?_⟩
      obtain ⟨hload, hcur⟩ := (h.dropRecord hq).loadCurrent (hq.requests_wf q List.mem_cons_self)
      refine AgreeTicks.goTransmit ?_ ?_ t a
      · exact ⟨hload, rfl, rfl⟩
      · exact hcur
  | transmitPacket =>
    have hcur : AgreeOnCurrent b c := h.current hf
    simp only [Machine.runTick, h.fsmState, hf, h.evAck, h.evNack, h.evTimeout]
    split_ifs
    · exact ⟨_, _, rfl, rfl, h.start.goPoll .done⟩
    · exact ⟨_, _, rfl, rfl, h.start.goTransmit hcur t a⟩
    · exact ⟨_, _, rfl, rfl, h.start.onTimeout hcur t a⟩
    · exact ⟨_, _, rfl, rfl, h.start⟩

/-! ### Agreement through every operation -/

/-- Both operations complete, with blocks that agree and the same output. -/
def AgreeNext (p p' : Performed) : Prop :=
  ∃ e e', p = .next e ∧ p' = .next e' ∧ AgreeOnWhatIsRead e.block e'.block ∧ e'.output = e.output

theorem AgreeOnWhatIsRead.respond {b c : Block} (h : AgreeOnWhatIsRead b c) (w : ResponseWord) (p : List Byte) :
    AgreeNext (respond w p b) (respond w p c) := ⟨_, _, rfl, rfl, h, rfl⟩

/-- WRITE_REQUEST tests the length and `used`, on which both blocks agree (R91). -/
theorem AgreeOnWhatIsRead.writeRequest {b c : Block} {q : TxRequest} {reqs : List TxRequest} (h : AgreeOnWhatIsRead b c)
    (hq : QueueHolds b reqs) (hwf : q.payloadLength.toNat ≤ 256 → q.wf = true) :
    (writeRequest q c).1 = (writeRequest q b).1 ∧ AgreeOnWhatIsRead (writeRequest q b).2 (writeRequest q c).2 := by
  have hfree : freeSpace c = freeSpace b := by rw [freeSpace, freeSpace, h.used]
  unfold Machine.writeRequest
  rw [hfree]
  split_ifs with hbig hfull
  · exact ⟨rfl, h⟩
  · exact ⟨rfl, h⟩
  · exact ⟨rfl, h.appendRecord hq (hwf (Nat.le_of_not_lt hbig)) (Nat.le_of_not_lt hfull)⟩

/-- FETCH_REQUEST's look at the oldest record is the same in both blocks, and no fault (R93). -/
theorem AgreeOnWhatIsRead.peekRequest {b c : Block} {reqs : List TxRequest} (h : AgreeOnWhatIsRead b c)
    (hq : QueueHolds b reqs) : ∃ r, peekRequest b = .ok r ∧ peekRequest c = .ok r := by
  unfold Machine.peekRequest
  cases reqs with
  | nil => exact ⟨none, if_pos (hq.eq_nil_iff.1 rfl), if_pos ((h.queueHolds hq).eq_nil_iff.1 rfl)⟩
  | cons q rest =>
    have hc := h.queueHolds hq
    exact ⟨some q, by rw [if_neg hq.count_ne_zero, hq.decode_head], by rw [if_neg hc.count_ne_zero, hc.decode_head]⟩

/-- In initialised blocks that agree and hold requests, every operation completes in both, with the same output. -/
theorem AgreeOnWhatIsRead.perform {i : Instr} {b c : Block} {reqs : List TxRequest} (hi : i.wellFormed = true)
    (h : AgreeOnWhatIsRead b c) (hq : QueueHolds b reqs) (h0 : b.initialised = true) (a : SendAnswer) :
    AgreeNext (perform i a b) (perform i a c) := by
  have h0c : c.initialised = true := h.initialised.trans h0
  have guarded : ∀ {p p' : Performed}, AgreeNext p p' → AgreeNext (whenInitialised b p) (whenInitialised c p') :=
    fun hp => by rwa [whenInitialised_true h0, whenInitialised_true h0c]
  cases i
  case init => exact (AgreeOnWhatIsRead.initialise b c).respond _ _
  case run now =>
    obtain ⟨x, y, hx, hy, hticks⟩ := h.runTick hq now a
    refine guarded ?_
    rw [hx, hy]
    exact ⟨_, _, rfl, rfl, hticks.block, by rw [hticks.resp, hticks.send]⟩
  case tickTimers now => exact guarded ((h.examineTimer now).respond _ _)
  case notifyAck => exact guarded (h.raiseAck.respond _ _)
  case notifyNack => exact guarded (h.raiseNack.respond _ _)
  case writeRequest src ack typ dir len p =>
    obtain ⟨hstatus, hblock⟩ := h.writeRequest (q := requestOf src ack typ dir len p) hq (requestOf_wf hi)
    refine guarded ?_
    rw [hstatus]
    exact hblock.respond _ _
  case fetchRequest =>
    obtain ⟨r, hb, hc⟩ := h.peekRequest hq
    refine guarded ?_
    rw [hb, hc]
    cases r with
    | none => exact h.respond _ _
    | some q => exact h.respond _ _
  case pendingCount => exact guarded (by rw [h.pendingCount]; exact h.respond _ _)
  all_goals exact guarded (h.respond _ _)

/-- Settles O55. -/
theorem unspecifiedValuesAreNeverRead : Obligations.UnspecifiedValuesAreNeverRead := by
  unfold Obligations.UnspecifiedValuesAreNeverRead
  intro i s t reqs hi hq h ha
  have complete : AgreeNext (perform i (presentedAnswer s) s.toBlock) (perform i (presentedAnswer t) t.toBlock) →
      ∃ s' t', exec i s = .next s' ∧ exec i t = .next t' ∧ AgreeOnWhatIsRead s'.toBlock t'.toBlock ∧
        outputOf i t = outputOf i s := by
    rintro ⟨e, e', hs, ht, hblock, hout⟩
    obtain ⟨hes, hos⟩ := exec_of_perform hs
    obtain ⟨het, hot⟩ := exec_of_perform ht
    exact ⟨_, _, hes, het, hblock, by rw [hos, hot, hout]⟩
  by_cases hinit : i = .init
  · subst hinit
    exact .inl (complete ((AgreeOnWhatIsRead.initialise _ _).respond _ _))
  · cases h0 : s.initialised with
    | true => exact .inl (complete (by rw [ha]; exact h.perform hi hq h0 _))
    | false =>
      have h0t : t.initialised = false := h.initialised.trans h0
      refine .inr ⟨.notInitialised, ?_, ?_⟩
      · rw [exec_eq_settle, perform_uninitialised _ h0 hinit]; rfl
      · rw [exec_eq_settle, perform_uninitialised _ h0t hinit]; rfl

end Sys2Proof.Machine
end

section
/-! PROOFS. The ring's memory (spec/20_memory.md R45): WRITE_REQUEST is its only writer. INIT moves the cursors and leaves
the bytes, a RUN that dequeues moves the read cursor. -/

namespace Sys2Proof.Machine

/-- Every operation but WRITE_REQUEST leaves the ring's memory as it is (R45, R92, R93, R111). -/
theorem perform_buf_of_opcode_ne {i : Instr} {a : SendAnswer} {b : Block} {e : Effect} (hi : i.opcode ≠ 0x5#4)
    (hp : perform i a b = .next e) : e.block.buf = b.buf := by
  rcases perform_cases hp with ⟨-, rfl⟩ | ⟨now, x, -, -, hx, rfl⟩ | ⟨now, -, -, rfl⟩ | ⟨-, -, rfl⟩ | ⟨-, -, rfl⟩ |
      ⟨src, ack, typ, dir, len, p, rfl, -, -⟩ | ⟨-, -, w, p, rfl⟩
  · rfl
  · exact (runTick_frame hx).1
  · rw [examineTimer_eq]
  · rfl
  · rfl
  · exact absurd rfl hi
  · rfl

/-- Settles O15: the memory itself stays, so every byte reads as before. -/
theorem onlyWriteRequestStoresToTheRing : Obligations.OnlyWriteRequestStoresToTheRing := by
  unfold Obligations.OnlyWriteRequestStoresToTheRing
  intro i s t hi h x
  obtain ⟨e, hp, -, rfl⟩ := exec_eq_next.1 h
  rw [perform_buf_of_opcode_ne hi hp]

end Sys2Proof.Machine
end

section
/-! PROOFS. The command and response words (spec/30_encoding.md R60 to R68): each format rebuilt from the fields the decoder
reads is the presented word with its reserved bits cleared, decoding by operation code, and the statements about the
decoder, the port and the words that follow. -/

namespace Sys2Proof

/-! ### The fields of a command word, put together again (R61, R63) -/

@[simp] theorem ofBool_ackRequiredField (w : CommandWord) :
    BitVec.ofBool (ackRequiredField w) = w.extractLsb' 11 1 := by
  rw [ackRequiredField, BitVec.getLsbD_eq_extractLsb']
  generalize w.extractLsb' 11 1 = x
  revert x; decide

@[simp] theorem dirBit_dirField (w : CommandWord) : dirBit (dirField w) = w.extractLsb' 20 1 := by
  rw [dirField, BitVec.getLsbD_eq_extractLsb']
  generalize w.extractLsb' 20 1 = x
  revert x; decide

/-- Format N carries the code alone. -/
theorem formatN_fields {w : CommandWord} {op : BitVec 4} (h : opField w = op) :
    formatN op = w &&& 0x000000000F#40 := by
  have hw : w.extractLsb' 4 36 ++ w.extractLsb' 0 4 = w := BitVec.extractLsb'_append_extractLsb' (w := 36)
  calc formatN op
      = (w.extractLsb' 4 36 &&& 0#36) ++ (w.extractLsb' 0 4 &&& BitVec.allOnes 4) := by
        rw [BitVec.and_zero, BitVec.and_allOnes, ← h]; rfl
    _ = w &&& 0x000000000F#40 := by rw [← BitVec.and_append, hw]; rfl

/-- Format T carries the time and the code. -/
theorem formatT_fields {w : CommandWord} {op : BitVec 4} (h : opField w = op) :
    formatT (nowMsField w) op = w &&& 0xFFFFFFFF0F#40 := by
  have hw : w.extractLsb' 8 32 ++ w.extractLsb' 4 4 ++ w.extractLsb' 0 4 = w := by
    simp only [BitVec.extractLsb'_append_extractLsb'_eq_extractLsb']
    exact BitVec.extractLsb'_eq_self
  calc formatT (nowMsField w) op
      = (w.extractLsb' 8 32 &&& BitVec.allOnes 32) ++ (w.extractLsb' 4 4 &&& 0#4)
          ++ (w.extractLsb' 0 4 &&& BitVec.allOnes 4) := by
        rw [BitVec.and_zero, BitVec.and_allOnes, BitVec.and_allOnes, ← h]; rfl
    _ = w &&& 0xFFFFFFFF0F#40 := by rw [← BitVec.and_append, ← BitVec.and_append, hw]; rfl

/-- The word in format W of the fields that a word shows. -/
def rewriteW (w : CommandWord) : CommandWord :=
  formatW (srcIdField w) (ackRequiredField w) (typeCodeField w) (dirField w) (payloadLengthField w) (opField w)

/-- Format W carries all its fields. -/
theorem rewriteW_eq (w : CommandWord) : rewriteW w = w &&& 0xFFFF1FFFFF#40 := by
  have hw : w.extractLsb' 24 16 ++ w.extractLsb' 21 3 ++ w.extractLsb' 20 1 ++ w.extractLsb' 12 8 ++ w.extractLsb' 11 1
      ++ w.extractLsb' 4 7 ++ w.extractLsb' 0 4 = w := by
    simp only [BitVec.extractLsb'_append_extractLsb'_eq_extractLsb']
    exact BitVec.extractLsb'_eq_self
  calc rewriteW w
      = (w.extractLsb' 24 16 &&& BitVec.allOnes 16) ++ (w.extractLsb' 21 3 &&& 0#3)
          ++ (w.extractLsb' 20 1 &&& BitVec.allOnes 1) ++ (w.extractLsb' 12 8 &&& BitVec.allOnes 8)
          ++ (w.extractLsb' 11 1 &&& BitVec.allOnes 1) ++ (w.extractLsb' 4 7 &&& BitVec.allOnes 7)
          ++ (w.extractLsb' 0 4 &&& BitVec.allOnes 4) := by
        simp only [BitVec.and_zero, BitVec.and_allOnes, rewriteW, formatW, ofBool_ackRequiredField, dirBit_dirField]; rfl
    _ = w &&& 0xFFFF1FFFFF#40 := by simp only [← BitVec.and_append, hw]; rfl

/-- Words with the same significant bits of format W show the same length. -/
theorem payloadLengthField_congr {w w' : CommandWord} (h : w &&& 0xFFFF1FFFFF#40 = w' &&& 0xFFFF1FFFFF#40) :
    payloadLengthField w = payloadLengthField w' :=
  calc payloadLengthField w = payloadLengthField (rewriteW w) := (payloadLengthField_formatW ..).symm
    _ = payloadLengthField (rewriteW w') := by rw [rewriteW_eq, rewriteW_eq, h]
    _ = payloadLengthField w' := payloadLengthField_formatW ..

/-! ### Decoding by operation code (R62) -/

/-- The operations of the reserved codes (R66). -/
def reservedOperations : List Instr :=
  [.reserved9, .reservedA, .reservedB, .reservedC, .reservedD, .reservedE, .reservedF]

/-- The operations of the port that answer ILLEGAL_OP (R66, R67). -/
def illegalOperations : List Instr := .readRequest :: reservedOperations

/-- The operations of format N: their code is all that their command says (R61, R62). -/
def codeOnlyOperations : List Instr :=
  [.init, .notifyAck, .notifyNack, .fetchRequest, .pendingCount] ++ illegalOperations

/-- Every code stands for RUN, TICK_TIMERS, WRITE_REQUEST or an operation of format N (R62). -/
theorem opcode_cases : ∀ op : BitVec 4, op = 0x1#4 ∨ op = 0x2#4 ∨ op = 0x5#4 ∨ ∃ i ∈ codeOnlyOperations, i.opcode = op := by
  decide

/-- The codes of the operations of format N lead to format N's significant bits (R61, R64). -/
theorem significantBits_codeOnly : ∀ i ∈ codeOnlyOperations, significantBits i.opcode = 0x000000000F#40 := by decide

theorem encode_codeOnly : ∀ i ∈ codeOnlyOperations, encode i = (formatN i.opcode, []) := by decide

section
variable {w : CommandWord} (bytes : List Byte)

theorem decode_run (h : opField w = 0x1#4) : decode w bytes = .ok (.run (nowMsField w)) := by
  simp [decode, h]

theorem decode_tickTimers (h : opField w = 0x2#4) : decode w bytes = .ok (.tickTimers (nowMsField w)) := by
  simp [decode, h]

theorem decode_writeRequest (h : opField w = 0x5#4) : decode w bytes = decodeWrite w bytes := by
  simp [decode, h]

theorem decode_codeOnly {i : Instr} (hi : i ∈ codeOnlyOperations) (h : opField w = i.opcode) :
    decode w bytes = .ok i := by
  simp only [codeOnlyOperations, illegalOperations, reservedOperations, List.cons_append, List.nil_append,
    List.mem_cons, List.not_mem_nil, or_false] at hi
  rcases hi with rfl | rfl | rfl | rfl | rfl | rfl | rfl | rfl | rfl | rfl | rfl | rfl | rfl <;>
    simp [decode, h, Instr.opcode]

end

/-- Everything the decoder can answer, by the format of the operation code (R61, R62). -/
theorem decode_cases (w : CommandWord) (bytes : List Byte) :
    (opField w = 0x1#4 ∧ decode w bytes = .ok (.run (nowMsField w))) ∨
    (opField w = 0x2#4 ∧ decode w bytes = .ok (.tickTimers (nowMsField w))) ∨
    (opField w = 0x5#4 ∧ decode w bytes = decodeWrite w bytes) ∨
    (∃ i ∈ codeOnlyOperations, opField w = i.opcode ∧ decode w bytes = .ok i) := by
  rcases opcode_cases (opField w) with h | h | h | ⟨i, hi, h⟩
  · exact .inl ⟨h, decode_run bytes h⟩
  · exact .inr (.inl ⟨h, decode_tickTimers bytes h⟩)
  · exact .inr (.inr (.inl ⟨h, decode_writeRequest bytes h⟩))
  · exact .inr (.inr (.inr ⟨i, hi, h.symm, decode_codeOnly bytes hi h.symm⟩))

/-! ### Decoding and encoding -/

/-- Format W read back: a well-formed WRITE_REQUEST is read whole, and no byte behind it (R61, R68). -/
theorem decodeWrite_formatW {src : BitVec 7} {ack : Bool} {typ : Byte} {dir : Direction} {len : BitVec 16} {p : List Byte}
    (h : (Instr.writeRequest src ack typ dir len p).wellFormed = true) (op : BitVec 4) (behind : List Byte) :
    decodeWrite (formatW src ack typ dir len op) (p ++ behind) = .ok (.writeRequest src ack typ dir len p) := by
  simp only [Instr.wellFormed, payloadComplete, payloadAbsent, Bool.and_eq_true, decide_eq_true_eq] at h
  obtain ⟨complete, absent⟩ := h
  rcases decodeWrite_cases (formatW src ack typ dir len op) (p ++ behind) with
      ⟨hlen, e⟩ | ⟨hlen, hshort, -⟩ | ⟨hlen, -, e⟩ <;>
    simp only [payloadLengthField_formatW] at hlen
  · rw [e, absent hlen]; simp
  · have := complete hlen
    simp only [payloadLengthField_formatW, List.length_append] at hshort
    omega
  · rw [e]; simp [← complete hlen]

/-- Settles O1, by the format of the operation: each field read from the word in which it was written is the operand. -/
theorem decodeInvertsEncode : Obligations.DecodeInvertsEncode := by
  unfold Obligations.DecodeInvertsEncode
  intro i behind hwf
  have codeOnly : i ∈ codeOnlyOperations → decode (encode i).1 ((encode i).2 ++ behind) = .ok i := fun hi => by
    rw [encode_codeOnly i hi]
    exact decode_codeOnly _ hi (opField_formatN _)
  cases i with
  | run t => exact (decode_run _ (opField_formatT t _)).trans (by rw [nowMsField_formatT])
  | tickTimers t => exact (decode_tickTimers _ (opField_formatT t _)).trans (by rw [nowMsField_formatT])
  | writeRequest src ack typ dir len p =>
    exact (decode_writeRequest _ (opField_formatW ..)).trans (decodeWrite_formatW hwf _ behind)
  | _ => exact codeOnly (by decide)

/-- Format W written back: the word is the presented one but for its reserved bits, the payload the first bytes. -/
theorem encode_of_decodeWrite {w : CommandWord} {bytes : List Byte} {i : Instr} (hop : opField w = 0x5#4)
    (h : decodeWrite w bytes = .ok i) : encodeWord i = w &&& 0xFFFF1FFFFF#40 ∧ encodePayload i <+: bytes := by
  rw [← rewriteW_eq, rewriteW, hop]
  rcases decodeWrite_cases w bytes with ⟨-, e⟩ | ⟨-, -, e⟩ | ⟨-, -, e⟩ <;> rw [e] at h <;> cases h
  · exact ⟨rfl, List.nil_prefix⟩
  · exact ⟨rfl, List.take_prefix ..⟩

/-- Settles O2, by the format of the operation code: each format rebuilt from the fields it was read by. -/
theorem encodeInvertsDecode : Obligations.EncodeInvertsDecode := by
  unfold Obligations.EncodeInvertsDecode
  intro w bytes i h
  refine ⟨Machine.decode_wellFormed h, ?_⟩
  rcases decode_cases w bytes with ⟨hop, e⟩ | ⟨hop, e⟩ | ⟨hop, e⟩ | ⟨j, hj, hop, e⟩ <;> rw [e] at h
  · cases h
    rw [hop]
    exact ⟨formatT_fields hop, List.nil_prefix⟩
  · cases h
    rw [hop]
    exact ⟨formatT_fields hop, List.nil_prefix⟩
  · rw [hop]
    exact encode_of_decodeWrite hop h
  · cases h
    obtain ⟨hword, hpayload⟩ := Prod.mk.inj (encode_codeOnly i hj)
    rw [hword, hpayload, formatN_fields hop, hop, significantBits_codeOnly i hj]
    exact ⟨rfl, List.nil_prefix⟩

/-- Settles O4: only format W refuses, and it does so in one of its three cases. -/
theorem onlyShortPayloadIsUndecodable : Obligations.OnlyShortPayloadIsUndecodable := by
  unfold Obligations.OnlyShortPayloadIsUndecodable
  intro w bytes
  constructor
  · intro h
    rcases decode_cases w bytes with ⟨-, e⟩ | ⟨-, e⟩ | ⟨hop, e⟩ | ⟨i, -, -, e⟩ <;> rw [e] at h
    · cases h
    · cases h
    · rcases decodeWrite_cases w bytes with ⟨-, e⟩ | ⟨hlen, hshort, -⟩ | ⟨-, -, e⟩
      · rw [e] at h; cases h
      · exact ⟨hop, hlen, hshort⟩
      · rw [e] at h; cases h
    · cases h
  · rintro ⟨hop, hlen, hshort⟩
    rw [decode_writeRequest bytes hop]
    rcases decodeWrite_cases w bytes with ⟨hover, -⟩ | ⟨-, -, e⟩ | ⟨-, hfull, -⟩
    · omega
    · exact e
    · omega

/-- Settles O5: the decoder evaluated on the spec's words. -/
theorem specCommandWordsDecode : Obligations.SpecCommandWordsDecode := by
  unfold Obligations.SpecCommandWordsDecode
  decide

/-! ### Reserved bits (R64) -/

/-- The significant bits of a word that decodes decode to the same operation: they are the operation's own word. -/
theorem decode_significantBits {w : CommandWord} {bytes : List Byte} {i : Instr} (h : decode w bytes = .ok i) :
    decode (w &&& significantBits (opField w)) bytes = .ok i := by
  obtain ⟨hwf, hword, behind, rfl⟩ := encodeInvertsDecode w bytes i h
  rw [← hword]
  exact decodeInvertsEncode i behind hwf

/-- The decoder does not look at the reserved bits of a word, whether it answers an operation or refuses. -/
theorem decode_congr {w w' : CommandWord} (hop : opField w = opField w')
    (h : w &&& significantBits (opField w) = w' &&& significantBits (opField w')) (bytes : List Byte) :
    decode w bytes = decode w' bytes := by
  have refusal : decode w bytes = .error .payloadMissing ↔ decode w' bytes = .error .payloadMissing := by
    rw [onlyShortPayloadIsUndecodable, onlyShortPayloadIsUndecodable, ← hop]
    refine and_congr_right fun hop5 => ?_
    rw [← hop, hop5] at h
    rw [payloadLengthField_congr h]
  cases hd : decode w bytes with
  | error e => cases e; exact (refusal.1 hd).symm
  | ok i =>
    cases hd' : decode w' bytes with
    | error e => cases e; rw [refusal.2 hd'] at hd; cases hd
    | ok j => rw [← decode_significantBits hd, ← decode_significantBits hd', h]

end Sys2Proof

namespace Sys2Proof.Machine

/-! ### Commands on the port (R60, R66, R67) -/

/-- Settles O6: what a step on a presented command is, and what it is with nothing presented. -/
theorem stepPerformsThePresentedCommand : Obligations.StepPerformsThePresentedCommand := by
  unfold Obligations.StepPerformsThePresentedCommand
  constructor
  · intro s w bytes a rest i hin hd
    obtain ⟨hs, ho⟩ := step_command hin hd
    exact ⟨hs, presentedAnswer_command hin, ho⟩
  · intro s hin
    simp only [step, stepOutput, hin, and_self]

/-- Taking the input off after an operation: what remains is the effect on the block, and the inputs behind. -/
theorem takeInput_exec (i : Instr) (s : State) (rest : List Input) : mapNext (takeInput rest) (exec i s) =
    settle (takeInput rest s) (perform i (presentedAnswer s) s.toBlock) := by
  rw [exec_eq_settle]
  exact (settle_eq_mapNext s (takeInput rest s) _).symm

/-- Settles O3: a step looks at a command word only through the decoder, and nothing of the word is left after it. -/
theorem reservedCommandBitsAreIgnored : Obligations.ReservedCommandBitsAreIgnored := by
  unfold Obligations.ReservedCommandBitsAreIgnored
  intro w w' hop h bytes a rest s
  have hd : decode w bytes = decode w' bytes := decode_congr hop h bytes
  cases hd' : decode w' bytes with
  | error e => cases e; simp only [step, stepOutput, hd, hd', and_self]
  | ok i =>
    obtain ⟨hs, ho⟩ := step_command (s := { s with inputs := .command w bytes a :: rest }) rfl (hd.trans hd')
    obtain ⟨hs', ho'⟩ := step_command (s := { s with inputs := .command w' bytes a :: rest }) rfl hd'
    rw [hs, hs', ho, ho', takeInput_exec, takeInput_exec]
    exact ⟨rfl, rfl⟩

/-- The operations refused on the port leave the block as it is and answer ILLEGAL_OP, which is 4 (R65, R66, R67). -/
theorem perform_illegal {i : Instr} (hi : i ∈ illegalOperations) (a : SendAnswer) {b : Block}
    (h : b.initialised = true) : perform i a b = .next ⟨b, ⟨⟨4#48, []⟩, none⟩⟩ := by
  have answer : answerIllegalOp b = .next ⟨b, ⟨⟨4#48, []⟩, none⟩⟩ := by
    rw [answerIllegalOp, whenInitialised_true h, respondStatus, wordRS_illegalOp, respond]
  simp only [illegalOperations, reservedOperations, List.mem_cons, List.not_mem_nil, or_false] at hi
  rcases hi with rfl | rfl | rfl | rfl | rfl | rfl | rfl | rfl <;> exact answer

/-- A step on a word whose code is refused on the port takes the input off, changes nothing else and answers ILLEGAL_OP. -/
theorem step_illegal {i : Instr} (hi : i ∈ illegalOperations) {s : State} {w : CommandWord} {bytes : List Byte}
    {a : SendAnswer} {rest : List Input} (h : s.initialised = true) (hop : opField w = i.opcode)
    (hin : s.inputs = .command w bytes a :: rest) :
    step s = .next { s with inputs := rest } ∧ stepOutput s = some ⟨⟨4#48, []⟩, none⟩ :=
  step_of_perform hin (decode_codeOnly bytes (List.mem_append_right _ hi) hop) (perform_illegal hi a h)

/-- Settles O19: READ_REQUEST is one of the operations refused on the port. -/
theorem readRequestOnThePortIsIllegal : Obligations.ReadRequestOnThePortIsIllegal := by
  unfold Obligations.ReadRequestOnThePortIsIllegal
  have hi : Instr.readRequest ∈ illegalOperations := List.mem_cons_self
  exact ⟨fun s h => exec_of_perform_same (perform_illegal hi _ h),
    fun s w bytes a rest h hop hin => step_illegal hi h hop hin⟩

/-- The codes from 9 up are those of the reserved operations (R62). -/
theorem exists_reserved_of_le : ∀ op : BitVec 4, 9 ≤ op.toNat → ∃ i ∈ reservedOperations, op = i.opcode := by decide

/-- Settles O20: so are the reserved operations, and every code from 9 up is the code of one. -/
theorem reservedCodesAreIllegal : Obligations.ReservedCodesAreIllegal := by
  unfold Obligations.ReservedCodesAreIllegal
  constructor
  · intro i hi s h
    exact exec_of_perform_same (perform_illegal (List.mem_cons_of_mem _ hi) _ h)
  · intro s w bytes a rest h hop hin
    obtain ⟨i, hi, hcode⟩ := exists_reserved_of_le (opField w) hop
    exact step_illegal (List.mem_cons_of_mem _ hi) h hcode hin

/-! ### Response words (R65) -/

/-- The two lowest parts of a word stand in its low bits together. -/
theorem extractLsb'_zero_append_append {a b c : Nat} (x : BitVec a) (y : BitVec b) (z : BitVec c) :
    (x ++ y ++ z).extractLsb' 0 (b + c) = y ++ z := by
  rw [BitVec.append_assoc, BitVec.extractLsb'_cast, BitVec.extractLsb'_append_eq_right]

/-- Settles O52: a field is found by going past the parts below it; the lowest field and the zero bits above it together are
zero where the status is OK. -/
theorem responseWordFields : Obligations.ResponseWordFields := by
  unfold Obligations.ResponseWordFields
  refine ⟨by decide, by decide, by decide, ?statusOnly, ?count, ?request, ?run⟩
  case statusOnly => exact fun x => ⟨BitVec.extractLsb'_append_eq_right, BitVec.extractLsb'_append_eq_left⟩
  case count =>
    intro c
    refine ⟨extractLsb'_zero_append_append _ 0#5 (statusCode .ok), ?_⟩
    simp (disch := decide) only [wordRC, BitVec.extractLsb'_append_eq_of_le, BitVec.extractLsb'_append_eq_of_add_le]
    simp
  case request =>
    intro q
    refine ⟨extractLsb'_zero_append_append _ 0#1 (statusCode .ok), ?_⟩
    simp (disch := decide) only [wordRQ, BitVec.extractLsb'_append_eq_of_le, BitVec.extractLsb'_append_eq_of_add_le,
      BitVec.getLsbD_append]
    simp
  case run =>
    intro r
    refine ⟨extractLsb'_zero_append_append _ 0#1 (statusCode .ok), ?_⟩
    simp (disch := decide) only [wordRR, BitVec.extractLsb'_append_eq_of_le, BitVec.extractLsb'_append_eq_of_add_le,
      BitVec.getLsbD_append]
    simp

end Sys2Proof.Machine
end

section
/-! PROOFS. The request queue (spec/40_queue.md R91 to R98): WRITE_REQUEST, FETCH_REQUEST and PENDING_COUNT on the port, the
procedures WRITE_REQUEST and READ_REQUEST called any number of times on a ring that holds whole requests, and the capacity,
peek and FIFO laws that follow. -/

namespace Sys2Proof.Machine

/-! ### The ring after a write, by index (R45, R46) -/

/-- The byte `k` places after the cursor, the index taken mod 1024, is the `k`-th byte written. -/
theorem ringWrite_read_add (m : Ring) (a : BitVec 10) {v : List Byte} (hv : v.length ≤ 1024) {k : Nat}
    (hk : k < v.length) : Ring.read (ringWrite m a v) ((a.toNat + k) % 1024) = v[k]? := by
  have hread := ((ringRead_eq_some_iff _ a _ v).1 (ringRead_ringWrite_same m a v hv)).2 k hk
  rw [← ringIndex_add, hread, List.getElem?_eq_getElem hk]

/-- An index that no written byte falls on reads as before. -/
theorem ringWrite_read_other (m : Ring) (a : BitVec 10) {v : List Byte} (hv : v.length ≤ 1024) {x : Nat}
    (hx : ∀ k, k < v.length → x ≠ (a.toNat + k) % 1024) : Ring.read (ringWrite m a v) x = Ring.read m x := by
  rw [ringWrite_read m a v hv, dif_neg]
  rintro ⟨hlt, hoff⟩
  have ha := a.isLt
  exact hx _ hoff (by simp only [ringOffset]; omega)

/-! ### WRITE_REQUEST (R91) -/

/-- The procedure accepts a request exactly where its length is allowed and its record fits. -/
theorem writeRequest_eq_ok_iff {q : TxRequest} {b c : Block} : writeRequest q b = (.ok, c) ↔
    q.payloadLength.toNat ≤ 256 ∧ q.size ≤ 1024 - b.used.toNat ∧ c = appendRecord q b := by
  rcases writeRequest_cases q b with ⟨hbig, e⟩ | ⟨-, hfull, e⟩ | ⟨hle, hroom, e⟩ <;> rw [e]
  · simp [Nat.not_le.2 hbig]
  · simp [Nat.not_le.2 hfull]
  · simp [hle, hroom, eq_comm]

/-- A request of an allowed length whose record does not fit is rejected, and the block stays as it is. -/
theorem writeRequest_eq_queueFull {q : TxRequest} {b : Block} (hle : q.payloadLength.toNat ≤ 256)
    (hfull : 1024 - b.used.toNat < q.size) : writeRequest q b = (.queueFull, b) := by
  rcases writeRequest_cases q b with ⟨hbig, -⟩ | ⟨-, -, e⟩ | ⟨-, hroom, -⟩
  · omega
  · exact e
  · omega

/-- WRITE_REQUEST on the port is the procedure, and answers its status. -/
theorem exec_writeRequest {s : State} {b : Block} {x : Status} {src : BitVec 7} {ack : Bool} {typ : Byte}
    {dir : Direction} {len : BitVec 16} {p : List Byte} (h : s.initialised = true)
    (hw : writeRequest (requestOf src ack typ dir len p) s.toBlock = (x, b)) :
    exec (.writeRequest src ack typ dir len p) s = .next ⟨b, s.inputs⟩ ∧
    outputOf (.writeRequest src ack typ dir len p) s = some ⟨⟨wordRS x, []⟩, none⟩ := by
  refine exec_of_perform ?_
  rw [perform, performWriteRequest, whenInitialised_true h, hw]
  rfl

/-- Settles O14: what is stored is the record of the request, from `wr` on. -/
theorem writeStoresTheRecord : Obligations.WriteStoresTheRecord := by
  unfold Obligations.WriteStoresTheRecord
  intro s src ack typ dir len p h hwf hle hroom
  have hlen : (recordBytes (requestOf src ack typ dir len p)).length = 5 + len.toNat :=
    recordBytes_length_of_wf (requestOf_wf hwf hle)
  have hshort : (recordBytes (requestOf src ack typ dir len p)).length ≤ 1024 := by omega
  obtain ⟨hexec, hout⟩ := exec_writeRequest h (writeRequest_eq_ok_iff.2 ⟨hle, hroom, rfl⟩)
  rw [wordRS_ok] at hout
  refine ⟨ringWrite s.buf s.wr (recordBytes (requestOf src ack typ dir len p)), hexec, hout, fun k hk => ?_,
    fun x hx => ?_⟩
  · rw [ringWrite_read_add _ _ hshort (by omega)]
    cases dir <;> rfl
  · exact ringWrite_read_other _ _ hshort (by rwa [hlen])

/-- Settles O13. -/
theorem writeRejectedForLackOfRoom : Obligations.WriteRejectedForLackOfRoom := by
  unfold Obligations.WriteRejectedForLackOfRoom
  intro s src ack typ dir len p h hle hfull
  have hw := writeRequest_eq_queueFull (q := requestOf src ack typ dir len p) hle hfull
  simpa only [wordRS_queueFull] using exec_writeRequest h hw

/-! ### FETCH_REQUEST and PENDING_COUNT (R93, R94) -/

/-- What FETCH_REQUEST puts out for what it finds: EMPTY, or the oldest request (R65, R93). -/
def fetchResponse : Option TxRequest → Response
  | none => ⟨3#48, []⟩
  | some q => ⟨wordRQ q, q.payload⟩

/-- FETCH_REQUEST answers what the look at the oldest record gives, and writes no state. -/
theorem exec_fetchRequest {s : State} {found : Option TxRequest} (h : s.initialised = true)
    (hp : peekRequest s.toBlock = .ok found) :
    exec .fetchRequest s = .next s ∧ outputOf .fetchRequest s = some ⟨fetchResponse found, none⟩ := by
  refine exec_of_perform_same ?_
  rw [perform, performFetchRequest, whenInitialised_true h, hp]
  cases found with
  | none => rw [fetchResponse, ← wordRS_empty]; rfl
  | some q => rfl

/-- On a ring that holds whole requests, the look at the oldest record finds the oldest request, if there is one. -/
theorem QueueHolds.peekRequest {b : Block} {reqs : List TxRequest} (h : QueueHolds b reqs) :
    peekRequest b = .ok reqs.head? := by
  cases reqs with
  | nil => simp [Machine.peekRequest, h.eq_nil_iff.1 rfl]
  | cons q reqs => simp [Machine.peekRequest, h.count_ne_zero, h.decode_head]

/-- Settles O16. -/
theorem fetchReturnsTheOldestRequest : Obligations.FetchReturnsTheOldestRequest := by
  unfold Obligations.FetchReturnsTheOldestRequest
  exact fun s q reqs h hq => exec_fetchRequest h hq.peekRequest

/-- Settles O17. -/
theorem fetchOnEmptyQueueAnswersEmpty : Obligations.FetchOnEmptyQueueAnswersEmpty := by
  unfold Obligations.FetchOnEmptyQueueAnswersEmpty
  intro s h hcount
  have hpeek : Machine.peekRequest s.toBlock = .ok none := if_pos hcount
  exact exec_fetchRequest h hpeek

/-- The ring has room for at most 204 records, each of at least five bytes (R98). -/
theorem QueueHolds.length_le {b : Block} {reqs : List TxRequest} (h : QueueHolds b reqs) : reqs.length ≤ 204 := by
  have hlen := length_le_totalSize h.requests_wf
  have hused := h.occupied
  have hfits : b.used.toNat ≤ 1024 := h.fits
  omega

/-- Settles O18. -/
theorem pendingCountReportsTheCount : Obligations.PendingCountReportsTheCount := by
  unfold Obligations.PendingCountReportsTheCount
  constructor
  · intro s h
    refine exec_of_perform_same ?_
    rw [perform, performPendingCount, whenInitialised_true h, respond]
  · exact fun b reqs h => ⟨h.count, h.length_le, rfl⟩

/-! ### Many calls of the procedures (R96, R97) -/

/-- Requests that are all accepted stand behind those the ring held. -/
theorem QueueHolds.writeAll {b c : Block} {old new : List TxRequest} (h : QueueHolds b old)
    (hwf : ∀ q ∈ new, q.wf = true) (hc : writeAll new b = some c) : QueueHolds c (old ++ new) := by
  induction new generalizing b old with
  | nil => cases hc; simpa using h
  | cons q new ih =>
    obtain ⟨hq, hnew⟩ := List.forall_mem_cons.1 hwf
    rw [Machine.writeAll] at hc
    split at hc
    next b' hok =>
      obtain ⟨-, hroom, rfl⟩ := writeRequest_eq_ok_iff.1 hok
      simpa using ih (h.appendRecord hq hroom) hnew hc
    next => cases hc

/-- Requests that fit together with those the ring holds are all accepted. -/
theorem QueueHolds.exists_writeAll {b : Block} {old new : List TxRequest} (h : QueueHolds b old)
    (hwf : ∀ q ∈ new, q.wf = true) (hfit : totalSize old + totalSize new ≤ 1024) :
    ∃ c, Machine.writeAll new b = some c := by
  induction new generalizing b old with
  | nil => exact ⟨b, rfl⟩
  | cons q new ih =>
    obtain ⟨hq, hnew⟩ := List.forall_mem_cons.1 hwf
    rw [totalSize_cons] at hfit
    have hroom : q.size ≤ 1024 - b.used.toNat := by rw [h.occupied]; omega
    have hok := writeRequest_eq_ok_iff.2 ⟨((TxRequest.wf_iff q).1 hq).1, hroom, rfl⟩
    rw [Machine.writeAll, hok]
    refine ih (h.appendRecord hq hroom) hnew ?_
    have hone : totalSize [q] = q.size := by simp [totalSize]
    rw [totalSize_append, hone]
    omega

/-- Requests submitted, accepted or not, leave those the ring held in front. -/
theorem QueueHolds.writeEach {b : Block} {reqs between : List TxRequest} (h : QueueHolds b reqs)
    (hw : ∀ w ∈ between, w.wf = true ∨ 256 < w.payloadLength.toNat) :
    ∃ more, QueueHolds (writeEach between b) (reqs ++ more) := by
  induction between generalizing b reqs with
  | nil => exact ⟨[], by simpa [Machine.writeEach] using h⟩
  | cons w between ih =>
    obtain ⟨hhead, hrest⟩ := List.forall_mem_cons.1 hw
    rw [Machine.writeEach]
    rcases writeRequest_cases w b with ⟨-, e⟩ | ⟨-, -, e⟩ | ⟨hle, hroom, e⟩ <;> rw [e]
    · exact ih h hrest
    · exact ih h hrest
    · obtain ⟨more, hmore⟩ := ih (h.appendRecord (hhead.resolve_right (by omega)) hroom) hrest
      exact ⟨w :: more, by simpa using hmore⟩

/-- READ_REQUEST takes the oldest request out (R92). -/
theorem QueueHolds.readRequest {b : Block} {q : TxRequest} {reqs : List TxRequest} (h : QueueHolds b (q :: reqs)) :
    readRequest b = .ok (some q, Machine.dropRecord q b) := by
  rw [Machine.readRequest, h.peekRequest]; rfl

/-- As many reads as there are requests in front return those, in order, and leave the others. -/
theorem QueueHolds.readMany {b : Block} {front back : List TxRequest} (h : QueueHolds b (front ++ back)) :
    ∃ c, readMany front.length b = some (front, c) ∧ QueueHolds c back := by
  induction front generalizing b with
  | nil => exact ⟨b, rfl, h⟩
  | cons q front ih =>
    obtain ⟨c, hread, hc⟩ := ih (b := Machine.dropRecord q b) h.dropRecord
    refine ⟨c, ?_, hc⟩
    rw [List.length_cons, Machine.readMany, h.readRequest]
    simp only [hread]

/-! ### The capacity law (R96) -/

/-- Settles O22: the reads take the first `N` of old and new requests together, and as many as were old stay. -/
theorem capacityLaw : Obligations.CapacityLaw := by
  unfold Obligations.CapacityLaw
  intro b b1 old new hb hwf hwrite
  have hb1 := hb.writeAll hwf hwrite
  have hlen : ((old ++ new).take new.length).length = new.length := by simp
  rw [← List.take_append_drop new.length (old ++ new)] at hb1
  obtain ⟨b2, hread, hb2⟩ := hb1.readMany
  rw [hlen] at hread
  have hcount : b2.pendingCount.toNat = b.pendingCount.toNat := by rw [hb2.count, hb.count]; simp
  have hsize : b2.used.toNat + totalSize ((old ++ new).take new.length) = b.used.toNat + totalSize new := by
    rw [hb2.occupied, hb.occupied, Nat.add_comm, ← totalSize_append, ← totalSize_append, List.take_append_drop]
  refine ⟨_, b2, hread, BitVec.eq_of_toNat_eq hcount, rfl, hsize, ?_, ?_⟩
  · rw [← BitVec.toNat_inj]; omega
  · rintro rfl
    have hempty : b2.used.toNat = 0 := by rw [hb2.occupied]; simp [totalSize]
    exact ⟨hb2.eq_nil_iff.1 (by simp), by rw [freeSpace, hempty]; rfl⟩

/-- A request with an empty payload, that of the vector P3 step 2 (spec/95_test_vectors.md). -/
def emptyRequest : TxRequest := ⟨2, true, 0x01, 0xAA, 0, []⟩

/-- A request of one byte, that of the vector P3 step 3. -/
def oneByteRequest : TxRequest := ⟨1, false, 0x56, 0xAA, 1, [0]⟩

/-- The block that holds the empty request alone. -/
def holdsEmptyRequest : Block := appendRecord emptyRequest (initialise State.reset.toBlock)

/-- Refutes O23, with the vector P3: `used` is 5 before one byte is written and 6 after the empty request is read. -/
theorem not_capacityLawForUsedFromAnyQueue : ¬ Obligations.CapacityLawForUsedFromAnyQueue := by
  unfold Obligations.CapacityLawForUsedFromAnyQueue
  intro law
  have hold : QueueHolds holdsEmptyRequest [emptyRequest] :=
    (queueHolds_initialise State.reset.toBlock).appendRecord (by decide) (by decide)
  have hwrite : writeAll [oneByteRequest] holdsEmptyRequest = some (appendRecord oneByteRequest holdsEmptyRequest) := rfl
  have hread : readMany 1 (appendRecord oneByteRequest holdsEmptyRequest) =
      some ([emptyRequest], dropRecord emptyRequest (appendRecord oneByteRequest holdsEmptyRequest)) := rfl
  have hused : (dropRecord emptyRequest (appendRecord oneByteRequest holdsEmptyRequest)).used = 6 ∧
      holdsEmptyRequest.used = 5 := by decide
  have hsame := (law _ _ _ _ _ _ hold (by decide) hwrite hread).2
  rw [hused.1, hused.2] at hsame
  exact absurd hsame (by decide)

/-! ### The peek law and the FIFO law (R97) -/

/-- Settles O24: (a) writes leave the oldest request in front; (b) what was written into an empty queue is all it holds. -/
theorem peekLawAndFifoLaw : Obligations.PeekLawAndFifoLaw := by
  unfold Obligations.PeekLawAndFifoLaw
  constructor
  · intro b q reqs between hb hw hpeek
    rw [hb.peekRequest] at hpeek
    obtain ⟨rest, rfl⟩ := List.head?_eq_some_iff.1 (Except.ok.inj hpeek)
    obtain ⟨more, hmore⟩ := hb.writeEach hw
    exact ⟨_, QueueHolds.readRequest hmore⟩
  · intro b b1 reqs hb hwf hwrite
    have hb1 := hb.writeAll hwf hwrite
    rw [List.nil_append, ← List.append_nil reqs] at hb1
    obtain ⟨b2, hread, -⟩ := hb1.readMany
    exact ⟨b2, hread⟩

/-! ### How many requests fit (R98) -/

/-- Requests of one length take as many bytes each. -/
theorem totalSize_of_payloadLength {reqs : List TxRequest} {n : BitVec 16} (h : ∀ x ∈ reqs, x.payloadLength = n) :
    totalSize reqs = reqs.length * (5 + n.toNat) := by
  have hsize : ∀ k ∈ reqs.map TxRequest.size, k = 5 + n.toNat := by
    intro k hk
    obtain ⟨x, hx, rfl⟩ := List.mem_map.1 hk
    rw [TxRequest.size, h x hx, recSize_eq]
  rw [totalSize, List.sum_eq_card_nsmul _ _ hsize, List.length_map, smul_eq_mul]

/-- Requests that fit an empty queue are all accepted, and a further one that would not fit with them is rejected. -/
theorem QueueHolds.writeAll_then_full {b : Block} {reqs : List TxRequest} {q : TxRequest} (h : QueueHolds b [])
    (hwf : ∀ x ∈ q :: reqs, x.wf = true) (hfit : totalSize reqs ≤ 1024) (hfull : 1024 < totalSize reqs + q.size) :
    ∃ c, Machine.writeAll reqs b = some c ∧ c.used.toNat = totalSize reqs ∧
      Machine.writeRequest q c = (.queueFull, c) := by
  obtain ⟨hq, hreqs⟩ := List.forall_mem_cons.1 hwf
  obtain ⟨c, hc⟩ := h.exists_writeAll hreqs (by simpa [totalSize] using hfit)
  have hused : c.used.toNat = totalSize reqs := (h.writeAll hreqs hc).occupied
  exact ⟨c, hc, hused, writeRequest_eq_queueFull ((TxRequest.wf_iff q).1 hq).1 (by omega)⟩

/-- Settles O25: 204 empty records take 1020 bytes, which leaves 4, and three of the largest take 783, which leaves 241. -/
theorem queueCapacityInRequests : Obligations.QueueCapacityInRequests := by
  unfold Obligations.QueueCapacityInRequests
  refine ⟨fun b reqs h => h.length_le, ?empty, ?largest⟩
  case empty =>
    intro b reqs q h hwf hlen hempty
    have htotal : totalSize reqs = 1020 := by rw [totalSize_of_payloadLength hempty, hlen]; rfl
    have hq := (TxRequest.size_bounds (hwf q List.mem_cons_self)).1
    rw [← htotal]
    exact h.writeAll_then_full hwf (by omega) (by omega)
  case largest =>
    intro b reqs q h hwf hlen hlargest
    obtain ⟨hq, hreqs⟩ := List.forall_mem_cons.1 hlargest
    have htotal : totalSize reqs = 783 := by rw [totalSize_of_payloadLength hreqs, hlen]; rfl
    have hsize : q.size = 261 := by rw [TxRequest.size, hq]; rfl
    rw [← htotal]
    exact h.writeAll_then_full hwf (by omega) (by omega)

end Sys2Proof.Machine
end

section
/-! PROOFS. Single operations of the transmit FSM (spec/41_txfsm.md R111 to R126): the rows of the transition table, the
timer, and what no operation can do, a send without a cause or a timeout that comes early. -/

namespace Sys2Proof.Machine

/-! ### The rows of the transition table (R124) -/

/-- The retry count one higher (R119). -/
def spendRetry (b : Block) : Block := { b with retryCount := b.retryCount + 1#2 }

@[simp] theorem currentFrame_spendRetry (b : Block) : currentFrame (spendRetry b) = currentFrame b := by
  unfold currentFrame; rfl

theorem runTick_idle (t : BitVec 32) (a : SendAnswer) {b : Block} (hf : b.fsmState = .pollPending)
    (hp : b.pendingCount = 0#8) : runTick t a b = .ok (.start b) := by
  simp only [runTick, hf, hp, if_true]

theorem runTick_ack (t : BitVec 32) (a : SendAnswer) {b : Block} (hf : b.fsmState = .transmitPacket)
    (hack : b.evAck = true) : runTick t a b = .ok (goPoll .done (.start b)) := by
  simp only [runTick, hf, hack, if_true]

section
variable (t : BitVec 32) (a : SendAnswer) {b : Block} (hf : b.fsmState = .transmitPacket) (hack : b.evAck = false)
include hf hack

theorem runTick_nack (hnack : b.evNack = true) : runTick t a b = .ok (goTransmit t a (.start b)) := by
  simp only [runTick, hf, hack, hnack, Bool.false_eq_true, if_false, if_true]

theorem runTick_wait (hnack : b.evNack = false) (htime : b.evTimeout = false) : runTick t a b = .ok (.start b) := by
  simp only [runTick, hf, hack, hnack, htime, Bool.false_eq_true, if_false]

theorem runTick_timeout (hnack : b.evNack = false) (htime : b.evTimeout = true) :
    runTick t a b = .ok (onTimeout t a (.start b)) := by
  simp only [runTick, hf, hack, hnack, htime, Bool.false_eq_true, if_false, if_true]

theorem runTick_retry (hnack : b.evNack = false) (htime : b.evTimeout = true) (hr : b.retryCount.toNat < 2) :
    runTick t a b = .ok (goTransmit t a (.start (spendRetry b))) := by
  rw [runTick_timeout t a hf hack hnack htime, onTimeout, if_pos (by exact hr)]
  rfl

theorem runTick_drop (hnack : b.evNack = false) (htime : b.evTimeout = true) (hr : b.retryCount = 2#2) :
    runTick t a b = .ok (goPoll .dropped (.start b)) := by
  rw [runTick_timeout t a hf hack hnack htime, onTimeout, if_neg (by simp [hr])]

end

/-! ### A RUN on the port, by how its tick ends -/

/-- The block after a send for a request that asks for acknowledgment: no event pending, and a new 50 ms window from `now`
(R113, R115). -/
def afterSend (now : BitVec 32) (a : SendAnswer) (b : Block) : Block :=
  { b with
    evAck := false, evNack := false, evTimeout := false, fsmState := .transmitPacket
    timerActive := true, timerStart := now
    stsSendBusy := b.stsSendBusy || decide (a = .busy) }

@[simp] theorem currentFrame_afterSend (now : BitVec 32) (a : SendAnswer) (b : Block) :
    currentFrame (afterSend now a b) = currentFrame b := by unfold currentFrame; rfl

/-- What a RUN that sends for such a request puts out (R115, R128). -/
def sendOutput (dequeued : Bool) (frame : List Byte) (a : SendAnswer) : Output :=
  ⟨⟨wordRR ⟨dequeued, txOfAnswer a, false, false⟩, []⟩, some ⟨frame, a⟩⟩

@[simp] theorem sendOutput_send (dequeued : Bool) (frame : List Byte) (a : SendAnswer) :
    (sendOutput dequeued frame a).send = some ⟨frame, a⟩ := rfl

theorem sendOutput_dequeued (frame : List Byte) (a : SendAnswer) : sendOutput true frame a =
    ⟨⟨match a with | .accepted => 0x030#48 | .busy => 0x050#48, []⟩, some ⟨frame, a⟩⟩ := by
  rw [sendOutput, wordRR_sent]; cases a <;> rfl

theorem sendOutput_resent (frame : List Byte) (a : SendAnswer) : sendOutput false frame a =
    ⟨⟨match a with | .accepted => 0x020#48 | .busy => 0x040#48, []⟩, some ⟨frame, a⟩⟩ := by
  rw [sendOutput, wordRR_sent]; cases a <;> rfl

section
variable {now : BitVec 32} {a : SendAnswer} {b c : Block} (h0 : b.initialised = true)
include h0

/-- A RUN whose tick changes nothing (R125, R126). -/
theorem perform_run_same (ht : runTick now a b = .ok (.start b)) :
    perform (.run now) a b = .next ⟨b, ⟨⟨0#48, []⟩, none⟩⟩ := by
  rw [← wordRR_nothing]
  exact performRun_eq_next.2 ⟨h0, _, ht, rfl⟩

/-- A RUN whose tick leads back to `PollPending` without a send (R116, R123). -/
theorem perform_run_leave {o : Leaving} (ht : runTick now a b = .ok (goPoll o (.start b))) :
    perform (.run now) a b =
      .next ⟨(goPoll o (.start b)).block, ⟨⟨wordRR (emitLeaving o .nothing), []⟩, none⟩⟩ :=
  performRun_eq_next.2 ⟨h0, _, ht, rfl⟩

/-- A RUN whose tick sends the current request, one that asks for acknowledgment (R115). -/
theorem perform_run_send {dequeued : Bool} (hack : c.curAck = true)
    (ht : runTick now a b = .ok (goTransmit now a ⟨c, ⟨dequeued, .none, false, false⟩, none⟩)) :
    perform (.run now) a b = .next ⟨afterSend now a c, sendOutput dequeued (currentFrame c) a⟩ := by
  rw [goTransmit_ack now a hack] at ht
  exact performRun_eq_next.2 ⟨h0, _, ht, rfl⟩

end

/-! ### The other operations of the family on the port -/

section
variable (a : SendAnswer) {b : Block} (h0 : b.initialised = true)
include h0

theorem perform_tickTimers (now : BitVec 32) :
    perform (.tickTimers now) a b = .next ⟨examineTimer now b, ⟨⟨0#48, []⟩, none⟩⟩ := by
  rw [perform, performTickTimers, whenInitialised_true h0, ← wordRS_ok]; rfl

theorem perform_notifyAck : perform .notifyAck a b = .next ⟨raiseAck b, ⟨⟨0#48, []⟩, none⟩⟩ := by
  rw [perform, performNotifyAck, whenInitialised_true h0, ← wordRS_ok]; rfl

theorem perform_notifyNack : perform .notifyNack a b = .next ⟨raiseNack b, ⟨⟨0#48, []⟩, none⟩⟩ := by
  rw [perform, performNotifyNack, whenInitialised_true h0, ← wordRS_ok]; rfl

end

/-! ### The whole next state of each row -/

/-- Settles O28. -/
theorem runDequeuesAckRequest : Obligations.RunDequeuesAckRequest := by
  unfold Obligations.RunDequeuesAckRequest
  intro s now q reqs h0 hf hq hack
  have hwf := hq.requests_wf q List.mem_cons_self
  obtain ⟨-, hlen, -⟩ := (TxRequest.wf_iff q).1 hwf
  obtain ⟨hexec, hout⟩ := exec_of_perform (perform_run_send h0 hack (runTick_dequeue now (presentedAnswer s) hf hq))
  rw [currentFrame_loadCurrent _ hwf, sendOutput_dequeued] at hout
  refine ⟨⟨q.payload ++ s.curPayload.drop q.payload.length, by rw [← hlen, List.take_left], ?_⟩, hout⟩
  rw [hexec]; simp [afterSend, recSize_eq, hack]

/-- Settles O29: the entry action completes the request, so the FSM is back in `PollPending`. -/
theorem runDequeuesNoAckRequest : Obligations.RunDequeuesNoAckRequest := by
  unfold Obligations.RunDequeuesNoAckRequest
  intro s now q reqs h0 hf hq hack
  have hwf := hq.requests_wf q List.mem_cons_self
  obtain ⟨-, hlen, -⟩ := (TxRequest.wf_iff q).1 hwf
  have htick := runTick_dequeue now (presentedAnswer s) hf hq
  rw [goTransmit_noAck now _ hack] at htick
  obtain ⟨hexec, hout⟩ := exec_run_of_tick h0 htick
  rw [currentFrame_loadCurrent _ hwf, wordRR_sent] at hout
  refine ⟨⟨q.payload ++ s.curPayload.drop q.payload.length, by rw [← hlen, List.take_left], ?_⟩, ?_⟩
  · rw [hexec]; simp [recSize_eq, hack, hf]
  · rw [hout]; cases presentedAnswer s <;> rfl

/-- Settles O27. -/
theorem runIdleChangesNothing : Obligations.RunIdleChangesNothing := by
  unfold Obligations.RunIdleChangesNothing
  intro s now h0 hf hp
  exact exec_of_perform_same (perform_run_same h0 (runTick_idle now _ hf hp))

/-- Settles O30. -/
theorem runTakesAckFirst : Obligations.RunTakesAckFirst := by
  unfold Obligations.RunTakesAckFirst
  intro s now h0 hf hack
  rw [← wordRR_done]
  exact exec_of_perform (perform_run_leave h0 (runTick_ack now _ hf hack))

/-- Settles O31: the events that the send clears without being named here were clear before. -/
theorem runResendsOnNack : Obligations.RunResendsOnNack := by
  unfold Obligations.RunResendsOnNack
  intro s now h0 hf hcur hack hnack
  obtain ⟨hexec, hout⟩ := exec_of_perform (perform_run_send h0 hcur (runTick_nack now (presentedAnswer s) hf hack hnack))
  rw [sendOutput_resent] at hout
  refine ⟨?_, hout⟩
  rw [hexec]; simp [afterSend, hack, hf]

/-- Settles O32. -/
theorem runRetriesOnTimeout : Obligations.RunRetriesOnTimeout := by
  unfold Obligations.RunRetriesOnTimeout
  intro s now h0 hf hcur hack hnack htime hr
  have htick := runTick_retry now (presentedAnswer s) hf hack hnack htime hr
  obtain ⟨hexec, hout⟩ := exec_of_perform (perform_run_send (c := spendRetry s.toBlock) h0 hcur htick)
  rw [sendOutput_resent, currentFrame_spendRetry] at hout
  refine ⟨?_, hout⟩
  rw [hexec]; simp [afterSend, spendRetry, hack, hnack, hf]

/-- Settles O33. -/
theorem runDropsAfterTwoRetries : Obligations.RunDropsAfterTwoRetries := by
  unfold Obligations.RunDropsAfterTwoRetries
  intro s now h0 hf hack hnack htime hr
  have htick := runTick_drop now (presentedAnswer s) hf hack hnack htime hr
  obtain ⟨hexec, hout⟩ := exec_of_perform (perform_run_leave h0 htick)
  rw [wordRR_dropped] at hout
  refine ⟨?_, hout⟩
  rw [hexec]; simp [goPoll_eq, hack, hnack]

/-- Settles O34. -/
theorem runWaitsForAnEvent : Obligations.RunWaitsForAnEvent := by
  unfold Obligations.RunWaitsForAnEvent
  intro s now h0 hf hack hnack htime
  exact exec_of_perform_same (perform_run_same h0 (runTick_wait now _ hf hack hnack htime))

/-- Settles O9. -/
theorem initResetsTheBlock : Obligations.InitResetsTheBlock := by
  unfold Obligations.InitResetsTheBlock
  intro s
  rw [← wordRS_ok]
  exact exec_of_perform (i := .init) (b := initialise s.toBlock) rfl

/-- Settles O43. -/
theorem notifyRaisesItsEvent : Obligations.NotifyRaisesItsEvent := by
  unfold Obligations.NotifyRaisesItsEvent
  intro s h0
  exact ⟨exec_of_perform (perform_notifyAck _ h0), exec_of_perform (perform_notifyNack _ h0)⟩

/-! ### What a RUN answers and why it sends (R127, R128) -/

section
variable (t : BitVec 32) (a : SendAnswer) {b : Block}

/-- A send for a request that asks for acknowledgment leads to `TransmitPacket` (R115). -/
theorem goTransmit_ack_answers (hack : b.curAck = true) (dequeued : Bool) :
    (goTransmit t a ⟨b, ⟨dequeued, .none, false, false⟩, none⟩).block.fsmState = .transmitPacket ∧
    wordRR (goTransmit t a ⟨b, ⟨dequeued, .none, false, false⟩, none⟩).resp ∈ [0x030#48, 0x050#48, 0x020#48, 0x040#48] := by
  rw [goTransmit_ack t a hack]
  refine ⟨rfl, ?_⟩
  simp only [wordRR_sent]
  cases dequeued <;> cases a <;> decide

/-- The send for a request just dequeued that asks for none leads to `PollPending` (R115, R116). -/
theorem goTransmit_noAck_answers (hack : b.curAck = false) :
    (goTransmit t a ⟨b, ⟨true, .none, false, false⟩, none⟩).block.fsmState = .pollPending ∧
    wordRR (goTransmit t a ⟨b, ⟨true, .none, false, false⟩, none⟩).resp ∈ [0x0B0#48, 0x0D0#48] := by
  rw [goTransmit_noAck t a hack]
  refine ⟨rfl, ?_⟩
  simp only [wordRR_sent]
  cases a <;> decide

end

/-- Every tick that completes on a block that meets the FSM invariants: the state it leads to, and the response word there. A
resend stays in `TransmitPacket`, where the request in flight asks for acknowledgment (R27 item 4). -/
theorem FsmInv.runTick_answers {t : BitVec 32} {a : SendAnswer} {b : Block} {x : Tick} (h : FsmInv b)
    (hx : Machine.runTick t a b = .ok x) :
    (x.block.fsmState = .pollPending ∧ wordRR x.resp ∈ [0x000#48, 0x0B0#48, 0x0D0#48, 0x080#48, 0x100#48]) ∨
    (x.block.fsmState = .transmitPacket ∧ wordRR x.resp ∈ [0x000#48, 0x030#48, 0x050#48, 0x020#48, 0x040#48]) := by
  have resend : ∀ c : Block, c.curAck = true → x = goTransmit t a (.start c) →
      x.block.fsmState = .transmitPacket ∧ wordRR x.resp ∈ [0x000#48, 0x030#48, 0x050#48, 0x020#48, 0x040#48] := by
    rintro c hack rfl
    obtain ⟨hf, hw⟩ := goTransmit_ack_answers t a hack false
    exact ⟨hf, List.mem_cons_of_mem _ hw⟩
  rcases runTick_ok_cases hx with ⟨-, rfl⟩ | ⟨-, -, q, -, rfl⟩ | ⟨-, o, rfl⟩ | ⟨hf, e⟩ | ⟨hf, -, -, -, -, e⟩
  · cases hf : b.fsmState with
    | pollPending => exact .inl ⟨hf, by simp⟩
    | transmitPacket => exact .inr ⟨hf, by simp⟩
  · cases hack : q.ackRequired with
    | true =>
      obtain ⟨hf, hw⟩ := goTransmit_ack_answers t a (b := loadCurrent q (dropRecord q b)) hack true
      exact .inr ⟨hf, List.mem_cons_of_mem _ hw⟩
    | false =>
      obtain ⟨hf, hw⟩ := goTransmit_noAck_answers t a (b := loadCurrent q (dropRecord q b)) hack
      exact .inl ⟨hf, List.mem_cons_of_mem _ (List.mem_append_left [0x080#48, 0x100#48] hw)⟩
  · exact .inl ⟨rfl, by cases o <;> simp⟩
  · exact .inr (resend _ (h.transmit_ack hf) e)
  · exact .inr (resend { b with retryCount := b.retryCount + 1#2 } (h.transmit_ack hf) e)

/-- Settles O35. -/
theorem runResponseCombinations : Obligations.RunResponseCombinations := by
  unfold Obligations.RunResponseCombinations
  intro s t now hinv h
  obtain ⟨e, hp, ho, rfl⟩ := exec_eq_next.1 h
  obtain ⟨-, x, hx, rfl⟩ := performRun_eq_next.1 hp
  refine ⟨_, ho, ?_⟩
  exact (hinv.runTick_answers hx).imp (fun ⟨hf, hw⟩ => ⟨hf, _, hw, rfl⟩) (fun ⟨hf, hw⟩ => ⟨hf, _, hw, rfl⟩)

/-- The frame a send carries is still that of the current request after it (R115). -/
@[simp] theorem currentFrame_goTransmit (t : BitVec 32) (a : SendAnswer) (x : Tick) :
    currentFrame (goTransmit t a x).block = currentFrame x.block := by
  rw [goTransmit_eq]; unfold currentFrame; rfl

/-- A tick sends nothing, or the current request's frame once, as it dequeues, or reacts to a NACK, or spends a retry (R112,
R117, R119, R127). -/
theorem runTick_send_cases {t : BitVec 32} {a : SendAnswer} {b : Block} {x : Tick} (h : runTick t a b = .ok x) :
    x.send = none ∨ x.send = some ⟨currentFrame x.block, a⟩ ∧
      ((b.fsmState = .pollPending ∧ b.pendingCount ≠ 0#8 ∧ x.block.pendingCount = b.pendingCount - 1 ∧
          x.block.retryCount = 0#2) ∨
        (b.fsmState = .transmitPacket ∧ b.evAck = false ∧ b.evNack = true ∧ x.block.pendingCount = b.pendingCount ∧
          x.block.retryCount = b.retryCount) ∨
        (b.fsmState = .transmitPacket ∧ b.evAck = false ∧ b.evNack = false ∧ b.evTimeout = true ∧
          b.retryCount.toNat < 2 ∧ x.block.pendingCount = b.pendingCount ∧ x.block.retryCount = b.retryCount + 1)) := by
  rcases runTick_cases t a b with ⟨-, -, e⟩ | ⟨hf, hp, q, -, e⟩ | ⟨-, -, -, e⟩ | ⟨-, -, e⟩ | ⟨hf, ha, hn, e⟩ |
      ⟨hf, ha, hn, ht, e⟩ | ⟨-, -, -, -, e⟩ <;> rw [e] at h <;> cases h
  · exact .inl rfl
  · exact .inr ⟨by rw [currentFrame_goTransmit, goTransmit_eq], .inl ⟨hf, hp, by simp [goTransmit_eq]⟩⟩
  · exact .inl rfl
  · exact .inr ⟨by rw [currentFrame_goTransmit, goTransmit_eq], .inr (.inl ⟨hf, ha, hn, by simp [goTransmit_eq]⟩)⟩
  · rcases onTimeout_cases t a (.start b) with ⟨hr, e⟩ | ⟨-, e⟩ <;> rw [e]
    · exact .inr ⟨by rw [currentFrame_goTransmit, goTransmit_eq],
        .inr (.inr ⟨hf, ha, hn, ht, hr, by simp [goTransmit_eq]⟩)⟩
    · exact .inl rfl
  · exact .inl rfl

/-- Settles O36: only a RUN gets past its response, and its tick has one of the three causes. -/
theorem everySendHasOneOfThreeCauses : Obligations.EverySendHasOneOfThreeCauses := by
  unfold Obligations.EverySendHasOneOfThreeCauses
  intro i s t h
  obtain ⟨e, hp, ho, rfl⟩ := exec_eq_next.1 h
  refine ⟨e.output, ho, ?_⟩
  rcases perform_cases hp with ⟨-, rfl⟩ | ⟨now, x, rfl, -, hx, rfl⟩ | ⟨now, -, -, rfl⟩ | ⟨-, -, rfl⟩ |
      ⟨-, -, rfl⟩ | ⟨_, _, _, _, _, _, -, -, rfl⟩ | ⟨-, -, w, p, rfl⟩
  case inr.inl => exact (runTick_send_cases hx).imp id fun ⟨hsend, hcause⟩ => ⟨⟨now, rfl⟩, hsend, hcause⟩
  all_goals exact .inl rfl

/-! ### The timer (R120, R199) -/

/-- TICK_TIMERS is the look at the timer, and answers OK. -/
theorem exec_tickTimers {s : State} (h0 : s.initialised = true) (now : BitVec 32) :
    exec (.tickTimers now) s = .next ⟨examineTimer now s.toBlock, s.inputs⟩ ∧
    outputOf (.tickTimers now) s = some ⟨⟨0#48, []⟩, none⟩ := exec_of_perform (perform_tickTimers _ h0 now)

theorem examineTimer_fires {t : BitVec 32} {b : Block} (hon : b.timerActive = true)
    (h : 50 ≤ (t - b.timerStart).toNat) : examineTimer t b = fireTimeout b := by
  rcases examineTimer_cases t b with ⟨-, -, e⟩ | ⟨hoff | hlt, -⟩
  · exact e
  · rw [hon] at hoff; cases hoff
  · omega

theorem examineTimer_quiet {t : BitVec 32} {b : Block} (h : b.timerActive = false ∨ (t - b.timerStart).toNat < 50) :
    examineTimer t b = b := by
  rcases examineTimer_cases t b with ⟨hon, hle, -⟩ | ⟨-, e⟩
  · rcases h with hoff | hlt
    · rw [hon] at hoff; cases hoff
    · omega
  · exact e

/-- A second look at the same time changes nothing: the first has stopped the timer, or the window is still open. -/
theorem examineTimer_idem (t : BitVec 32) (b : Block) : examineTimer t (examineTimer t b) = examineTimer t b := by
  rcases examineTimer_cases t b with ⟨-, -, e⟩ | ⟨-, e⟩ <;> rw [e]
  · exact examineTimer_quiet (.inl rfl)
  · exact e

/-- Settles O40. -/
theorem tickTimersExaminesTheTimer : Obligations.TickTimersExaminesTheTimer := by
  unfold Obligations.TickTimersExaminesTheTimer
  intro s now h0
  obtain ⟨hexec, hout⟩ := exec_tickTimers h0 now
  refine ⟨hout, fun hon h => ?fires, fun h => ?quiet, fun t ht => ?again⟩
  case fires => rw [hexec, examineTimer_fires hon h]; rfl
  case quiet => rw [hexec, examineTimer_quiet h]
  case again =>
    rw [hexec] at ht
    cases ht
    have h1 : (examineTimer now s.toBlock).initialised = true := (SameRunRegisters.examineTimer now _).initialised.trans h0
    rw [(exec_tickTimers h1 now).1, examineTimer_idem]

/-- An active timer at which `d` milliseconds have passed, mod 2^32, stops exactly when `d` is at least 50, and then raises
the timeout (R120). -/
theorem exec_tickTimers_elapsed {s : State} (h0 : s.initialised = true) (hon : s.timerActive = true) {now : BitVec 32}
    {d : Nat} (hd : (now - s.timerStart).toNat = d) :
    ∃ t, exec (.tickTimers now) s = .next t ∧ (t.timerActive = false ↔ 50 ≤ d) ∧
      t.evTimeout = (s.evTimeout || decide (50 ≤ d)) := by
  refine ⟨_, (exec_tickTimers h0 now).1, ?_⟩
  by_cases h : 50 ≤ d
  · rw [examineTimer_fires hon (by omega)]; simp [h]
  · rw [examineTimer_quiet (.inr (by omega))]; simp [h, hon]

/-- Settles O41: `timer_start` cancels out of the difference, which wraps with the clock. -/
theorem elapsedTimeIsModular : Obligations.ElapsedTimeIsModular := by
  unfold Obligations.ElapsedTimeIsModular
  intro s e h0 hon he
  have forward : (s.timerStart + BitVec.ofNat 32 e - s.timerStart).toNat = e := by
    rw [BitVec.add_comm, BitVec.add_sub_cancel, BitVec.toNat_ofNat, Nat.mod_eq_of_lt he]
  refine ⟨exec_tickTimers_elapsed h0 hon forward, fun hpos hle => ?_⟩
  have backward : (s.timerStart - BitVec.ofNat 32 e - s.timerStart).toNat = 2 ^ 32 - e := by
    simp only [BitVec.toNat_sub, BitVec.toNat_ofNat]
    omega
  obtain ⟨t, ht, hoff, hev⟩ := exec_tickTimers_elapsed h0 hon backward
  have hlong : 50 ≤ 2 ^ 32 - e := by omega
  rw [decide_eq_true hlong, Bool.or_true] at hev
  exact ⟨t, ht, hev, hoff.2 hlong⟩

/-- A tick raises no timeout, and a timer that runs after it ran before or was started by it with a send (R115). -/
theorem runTick_timer {t : BitVec 32} {a : SendAnswer} {b : Block} {x : Tick} (h : runTick t a b = .ok x) :
    (x.block.evTimeout = true → b.evTimeout = true) ∧
    (x.block.timerActive = true → (b.timerActive = true ∧ x.block.timerStart = b.timerStart) ∨
      (x.block.timerStart = t ∧ ∃ y, x.send = some y)) := by
  have sent : ∀ y, x = goTransmit t a y → x.block.evTimeout = false ∧
      (x.block.timerActive = true → x.block.timerStart = t ∧ ∃ z, x.send = some z) := by
    rintro y rfl
    rw [goTransmit_eq]
    exact ⟨rfl, fun hon => ⟨if_pos hon, _, rfl⟩⟩
  rcases runTick_ok_cases h with ⟨-, rfl⟩ | ⟨-, -, q, -, e⟩ | ⟨-, o, rfl⟩ | ⟨-, e⟩ | ⟨-, -, -, -, -, e⟩
  case inl => exact ⟨id, fun hon => .inl ⟨hon, rfl⟩⟩
  case inr.inr.inl => exact ⟨nofun, nofun⟩
  all_goals
    obtain ⟨hev, hon⟩ := sent _ e
    exact ⟨by simp [hev], fun h => .inr (hon h)⟩

/-- An operation that completes is INIT, a RUN or a TICK_TIMERS, or leaves the timer and its event alone (R22, R115, R120). -/
theorem perform_timer_cases {i : Instr} {a : SendAnswer} {b : Block} {e : Effect} (h : perform i a b = .next e) :
    (i = .init ∧ e.block = initialise b) ∨
    (∃ now x, i = .run now ∧ runTick now a b = .ok x ∧ e.block = x.block ∧ e.output.send = x.send) ∨
    (∃ now, i = .tickTimers now ∧ e.block = examineTimer now b) ∨
    (e.block.evTimeout = b.evTimeout ∧ e.block.timerActive = b.timerActive ∧ e.block.timerStart = b.timerStart) := by
  rcases perform_cases h with ⟨rfl, rfl⟩ | ⟨now, x, rfl, -, hx, rfl⟩ | ⟨now, rfl, -, rfl⟩ | ⟨-, -, rfl⟩ |
      ⟨-, -, rfl⟩ | ⟨src, ack, typ, dir, len, p, -, -, rfl⟩ | ⟨-, -, w, p, rfl⟩
  · exact .inl ⟨rfl, rfl⟩
  · exact .inr (.inl ⟨now, x, rfl, hx, rfl, rfl⟩)
  · exact .inr (.inr (.inl ⟨now, rfl, rfl⟩))
  · exact .inr (.inr (.inr ⟨rfl, rfl, rfl⟩))
  · exact .inr (.inr (.inr ⟨rfl, rfl, rfl⟩))
  · rcases writeRequest_block (requestOf src ack typ dir len p) b with e | e <;> simp [e]
  · exact .inr (.inr (.inr ⟨rfl, rfl, rfl⟩))

/-- Settles O42: only TICK_TIMERS raises the timeout, and only a send starts the timer. -/
theorem timeoutNeverComesEarly : Obligations.TimeoutNeverComesEarly := by
  unfold Obligations.TimeoutNeverComesEarly
  intro i s t h
  obtain ⟨e, hp, ho, rfl⟩ := exec_eq_next.1 h
  dsimp only
  rcases perform_timer_cases hp with ⟨-, hb⟩ | ⟨now, x, rfl, hx, hb, hsend⟩ | ⟨now, rfl, hb⟩ | ⟨hev, hon, hstart⟩
  · rw [hb]; exact ⟨nofun, nofun⟩
  · obtain ⟨hev, hon⟩ := runTick_timer hx
    rw [hb]
    refine ⟨fun h h' => by simp [hev h'] at h, fun h => (hon h).imp id ?_⟩
    rintro ⟨hstart, y, hy⟩
    exact ⟨now, e.output, y, rfl, hstart, ho, hsend.trans hy⟩
  · rw [hb]
    rcases examineTimer_cases now s.toBlock with ⟨hon, hle, e⟩ | ⟨-, e⟩ <;> rw [e]
    · exact ⟨fun _ _ => ⟨now, rfl, hon, hle⟩, nofun⟩
    · exact ⟨fun h h' => by simp [h] at h', fun h => .inl ⟨h, rfl⟩⟩
  · rw [hev, hon, hstart]
    exact ⟨fun h h' => by simp [h] at h', fun h => .inl ⟨h, rfl⟩⟩

end Sys2Proof.Machine
end

section
/-! PROOFS. Runs of the transmit FSM: a NACK storm, silence to the drop, and two timeouts before an ACK (spec/41_txfsm.md R129
to R131). -/

namespace Sys2Proof.Machine

/-! ### Operations performed in order -/

/-- Operations, each with the transport's answer, take a block to another one and put these outputs out. -/
inductive Performs : List (Instr × SendAnswer) → Block → Block → List Output → Prop
  | nil (b : Block) : Performs [] b b []
  | cons {i : Instr} {a : SendAnswer} {ops : List (Instr × SendAnswer)} {b c d : Block} {o : Output} {os : List Output} :
      i.wellFormed = true → perform i a b = .next ⟨c, o⟩ → Performs ops c d os →
      Performs ((i, a) :: ops) b d (o :: os)

theorem Performs.append {l r : List (Instr × SendAnswer)} {b c d : Block} {os os' : List Output} (h : Performs l b c os)
    (h' : Performs r c d os') : Performs (l ++ r) b d (os ++ os') := by
  induction h with
  | nil b => exact h'
  | cons hi hp _ ih => exact .cons hi hp (ih h')

theorem Performs.length_eq {ops : List (Instr × SendAnswer)} {b c : Block} {os : List Output} (h : Performs ops b c os) :
    os.length = ops.length := by
  induction h with
  | nil b => rfl
  | cons _ _ _ ih => rw [List.length_cons, List.length_cons, ih]

/-- Operations presented in order are performed in order, one a step: what `Performs` says is what the machine does. -/
theorem Performs.run {ops : List (Instr × SendAnswer)} {b c : Block} {os : List Output} (h : Performs ops b c os)
    (rest : List Input) :
    Sys2Proof.core.run ops.length (⟨b, presentAll ops ++ rest⟩ : State) = .next (⟨c, rest⟩ : State) ∧
    runOutputs ops.length ⟨b, presentAll ops ++ rest⟩ = os := by
  induction h with
  | nil b => exact ⟨rfl, rfl⟩
  | @cons i a ops b c d o os hi hp _ ih =>
    have hd : decode (encodeWord i) (encodePayload i) = .ok i := by
      simpa only [encode, List.append_nil] using decodeInvertsEncode i [] hi
    obtain ⟨hrun, hout⟩ := run_of_perform (rest := presentAll ops ++ rest) ops.length hd hp
    exact ⟨hrun.trans ih.1, hout.trans (by rw [ih.2])⟩

/-- What a state that presents `k` such operations runs to, and what it puts out. -/
theorem Performs.core_run {ops : List (Instr × SendAnswer)} {s : State} {c : Block} {os : List Output}
    {rest : List Input} {k : Nat} (h : Performs ops s.toBlock c os) (hk : ops.length = k)
    (hin : s.inputs = presentAll ops ++ rest) :
    Sys2Proof.core.run k s = .next (⟨c, rest⟩ : State) ∧ runOutputs k s = os := by
  subst hk
  obtain ⟨b, inputs⟩ := s
  obtain rfl : inputs = presentAll ops ++ rest := hin
  exact h.run rest

@[simp] theorem sendsOf_nil : sendsOf [] = [] := rfl

@[simp] theorem sendsOf_cons (o : Output) (os : List Output) : sendsOf (o :: os) = o.send.toList ++ sendsOf os := by
  cases h : o.send <;> simp [sendsOf, h]

@[simp] theorem sendsOf_append (l r : List Output) : sendsOf (l ++ r) = sendsOf l ++ sendsOf r := List.filterMap_append

/-! ### NACK after NACK (R130, R198) -/

@[simp] theorem currentFrame_raiseNack (b : Block) : currentFrame (raiseNack b) = currentFrame b := by
  unfold currentFrame; rfl

/-- A NACK and the RUN after it send the current frame again and open a new window; no retry is spent. -/
theorem performs_nackRound {b : Block} (h0 : b.initialised = true) (hf : b.fsmState = .transmitPacket)
    (hcur : b.curAck = true) (hack : b.evAck = false) (t : BitVec 32) (a : SendAnswer) :
    Performs [(.notifyNack, a), (.run t, a)] b (afterSend t a b)
      [⟨⟨0#48, []⟩, none⟩, sendOutput false (currentFrame b) a] := by
  have htick := runTick_nack (b := raiseNack b) t a hf hack rfl
  have hrun := perform_run_send (b := raiseNack b) (c := raiseNack b) h0 hcur htick
  rw [currentFrame_raiseNack] at hrun
  exact .cons rfl (perform_notifyNack a h0) (.cons rfl hrun (.nil _))

/-- Any number of such rounds. -/
theorem performs_nackRounds (rounds : List (BitVec 32 × SendAnswer)) : ∀ {b : Block}, b.initialised = true →
    b.fsmState = .transmitPacket → b.curAck = true → b.evAck = false →
    ∃ c os, Performs (nackRounds rounds) b c os ∧ c.fsmState = .transmitPacket ∧ c.retryCount = b.retryCount ∧
      c.pendingCount = b.pendingCount ∧ sendsOf os = rounds.map fun x => ⟨currentFrame b, x.2⟩ := by
  induction rounds with
  | nil => exact fun {b} _ hf _ _ => ⟨b, [], .nil b, hf, rfl, rfl, rfl⟩
  | cons x rounds ih =>
    intro b h0 hf hcur hack
    obtain ⟨c, os, hp, hf', hr, hc, hs⟩ := ih (b := afterSend x.1 x.2 b) h0 rfl hcur rfl
    refine ⟨c, _, (performs_nackRound h0 hf hcur hack x.1 x.2).append hp, hf', hr, hc, ?_⟩
    simp [hs]

theorem nackRounds_length (rounds : List (BitVec 32 × SendAnswer)) : (nackRounds rounds).length = 2 * rounds.length := by
  simp [nackRounds, Nat.mul_comm]

/-- Settles O44, by induction on the rounds: each leads back to a block that waits with the same frame. -/
theorem nackStormNeverEnds : Obligations.NackStormNeverEnds := by
  unfold Obligations.NackStormNeverEnds
  intro rounds rest s h0 hf hcur hack hin
  obtain ⟨c, os, hp, hf', hr, hc, hs⟩ := performs_nackRounds rounds h0 hf hcur hack
  obtain ⟨hrun, hout⟩ := hp.core_run (nackRounds_length rounds) hin
  exact ⟨⟨c, rest⟩, hrun, rfl, hf', hr, hc, by rw [runSends, hout, hs]; rfl⟩

/-! ### Silence (R129, R131) -/

section
variable {b : Block} {reqs : List TxRequest} (h : QueueHolds b reqs)
include h

theorem QueueHolds.afterSend (t : BitVec 32) (a : SendAnswer) : QueueHolds (afterSend t a b) reqs :=
  h.congr rfl rfl rfl rfl rfl

theorem QueueHolds.spendRetry : QueueHolds (spendRetry b) reqs := h.congr rfl rfl rfl rfl rfl

theorem QueueHolds.raiseAck : QueueHolds (raiseAck b) reqs := h.congr rfl rfl rfl rfl rfl

theorem QueueHolds.fireTimeout : QueueHolds (fireTimeout b) reqs := h.congr rfl rfl rfl rfl rfl

theorem QueueHolds.goPoll_start (o : Leaving) : QueueHolds (goPoll o (.start b)).block reqs :=
  h.congr rfl rfl rfl rfl rfl

end

/-- The RUN that dequeues a request that asks for acknowledgment. -/
theorem performs_dequeue {b : Block} {q : TxRequest} {reqs : List TxRequest} (h0 : b.initialised = true)
    (hf : b.fsmState = .pollPending) (hq : QueueHolds b (q :: reqs)) (hack : q.ackRequired = true) (t : BitVec 32)
    (a : SendAnswer) : Performs [(.run t, a)] b (afterSend t a (loadCurrent q (dropRecord q b)))
      [sendOutput true (serialize q.typeCode q.dircode q.payloadLength q.payload) a] := by
  have hrun := perform_run_send h0 hack (runTick_dequeue t a hf hq)
  rw [currentFrame_loadCurrent _ (hq.requests_wf q List.mem_cons_self)] at hrun
  exact .cons rfl hrun (.nil _)

@[simp] theorem currentFrame_fireTimeout (b : Block) : currentFrame (fireTimeout b) = currentFrame b := by
  unfold currentFrame; rfl

section
variable {b : Block} {t u v : BitVec 32} (h0 : b.initialised = true)
include h0

/-- A TICK_TIMERS when the window has passed fires the timeout. -/
theorem perform_tickTimers_afterSend (hwindow : 50 ≤ (u - t).toNat) (a a' : SendAnswer) :
    perform (.tickTimers u) a' (afterSend t a b) = .next ⟨fireTimeout (afterSend t a b), ⟨⟨0#48, []⟩, none⟩⟩ := by
  have hinit : (afterSend t a b).initialised = true := h0
  rw [perform_tickTimers a' hinit, examineTimer_fires (b := afterSend t a b) rfl hwindow]

/-- A silent window with retry budget left: the timeout, and the RUN that spends one retry and sends the frame again. -/
theorem performs_silentRetry (hwindow : 50 ≤ (u - t).toNat) (hcur : b.curAck = true) (hr : b.retryCount.toNat < 2)
    (a a' a'' : SendAnswer) :
    Performs [(.tickTimers u, a'), (.run v, a'')] (afterSend t a b) (afterSend v a'' (spendRetry (afterSend t a b)))
      [⟨⟨0#48, []⟩, none⟩, sendOutput false (currentFrame b) a''] := by
  have htick := runTick_retry (b := fireTimeout (afterSend t a b)) v a'' rfl rfl rfl rfl hr
  have hrun := perform_run_send (b := fireTimeout (afterSend t a b)) (c := spendRetry (fireTimeout (afterSend t a b)))
    h0 hcur htick
  rw [currentFrame_spendRetry, currentFrame_fireTimeout, currentFrame_afterSend] at hrun
  exact .cons rfl (perform_tickTimers_afterSend h0 hwindow a a') (.cons rfl hrun (.nil _))

/-- A silent window with the retry budget spent: the timeout, and the RUN that drops the request. -/
theorem performs_silentDrop (hwindow : 50 ≤ (u - t).toNat) (hr : b.retryCount = 2#2) (a a' a'' : SendAnswer) :
    Performs [(.tickTimers u, a'), (.run v, a'')] (afterSend t a b)
      (goPoll .dropped (.start (fireTimeout (afterSend t a b)))).block
      [⟨⟨0#48, []⟩, none⟩, ⟨⟨0x100#48, []⟩, none⟩] := by
  have hrun := perform_run_leave (b := fireTimeout (afterSend t a b)) h0 (runTick_drop v a'' rfl rfl rfl rfl hr)
  rw [wordRR_dropped] at hrun
  exact .cons rfl (perform_tickTimers_afterSend h0 hwindow a a') (.cons rfl hrun (.nil _))

/-- An ACK in the window, and the RUN that completes the request. -/
theorem performs_ackCompletes (a a' a'' : SendAnswer) :
    Performs [(.notifyAck, a'), (.run v, a'')] (afterSend t a b)
      (goPoll .done (.start (raiseAck (afterSend t a b)))).block
      [⟨⟨0#48, []⟩, none⟩, ⟨⟨0x080#48, []⟩, none⟩] := by
  have hrun := perform_run_leave (b := raiseAck (afterSend t a b)) h0 (runTick_ack v a'' rfl rfl)
  rw [wordRR_done] at hrun
  exact .cons rfl (perform_notifyAck a' h0) (.cons rfl hrun (.nil _))

end

/-- A dequeue and two silent windows: three sends of one frame, and the retry budget spent (R129). -/
theorem performs_threeSends {b : Block} {q : TxRequest} {reqs : List TxRequest} (h0 : b.initialised = true)
    (hf : b.fsmState = .pollPending) (hq : QueueHolds b (q :: reqs)) (hack : q.ackRequired = true)
    {t0 t1 u1 t2 : BitVec 32} (hw1 : 50 ≤ (t1 - t0).toNat) (hw2 : 50 ≤ (t2 - u1).toNat) (u2 : BitVec 32)
    (a0 b1 a1 b2 a2 : SendAnswer) :
    ∃ c os, Performs [(.run t0, a0), (.tickTimers t1, b1), (.run u1, a1), (.tickTimers t2, b2), (.run u2, a2)] b
        (afterSend u2 a2 c) os ∧
      c.initialised = true ∧ c.retryCount = 2#2 ∧ QueueHolds c reqs ∧
      sendsOf os = [⟨serialize q.typeCode q.dircode q.payloadLength q.payload, a0⟩,
        ⟨serialize q.typeCode q.dircode q.payloadLength q.payload, a1⟩,
        ⟨serialize q.typeCode q.dircode q.payloadLength q.payload, a2⟩] := by
  have hfirst := performs_dequeue h0 hf hq hack t0 a0
  have hsecond := performs_silentRetry (b := loadCurrent q (dropRecord q b)) (v := u1) h0 hw1 hack (by simp) a0 b1 a1
  have hthird := performs_silentRetry (b := spendRetry (afterSend t0 a0 (loadCurrent q (dropRecord q b)))) (v := u2)
    h0 hw2 hack (by simp [spendRetry, afterSend]) a1 b2 a2
  refine ⟨_, _, hfirst.append (hsecond.append hthird), h0, rfl, ?_, ?_⟩
  · exact (((hq.dropRecord.loadCurrent q).afterSend t0 a0).spendRetry.afterSend u1 a1).spendRetry
  · simp [currentFrame_loadCurrent _ (hq.requests_wf q List.mem_cons_self)]

/-- Settles O45: the third silent window finds the retry budget spent. -/
theorem silenceDropsAfterThreeSends : Obligations.SilenceDropsAfterThreeSends := by
  unfold Obligations.SilenceDropsAfterThreeSends
  intro s q reqs rest t0 t1 u1 t2 u2 t3 u3 a0 b1 a1 b2 a2 b3 a3 h0 hf hq hack hw1 hw2 hw3 hin
  obtain ⟨c, os, hsends, hc0, hr, hreqs, hs⟩ := performs_threeSends h0 hf hq hack hw1 hw2 u2 a0 b1 a1 b2 a2
  have hall := hsends.append (performs_silentDrop (v := u3) hc0 hw3 hr a2 b3 a3)
  obtain ⟨hrun, hout⟩ := hall.core_run (k := 7) rfl hin
  refine ⟨_, ⟨⟨0x100#48, []⟩, none⟩, hrun, rfl, ?_, rfl, hr, rfl,
    (hreqs.afterSend u2 a2).fireTimeout.goPoll_start .dropped, ?_, ?_, rfl⟩
  · rw [runSends, hout, sendsOf_append, hs]; rfl
  · rw [hout]; exact hall.length_eq
  · rw [hout]; exact List.getLast?_append_cons os _ [_]

/-- Settles O46: an ACK in the third window completes the request although the budget is spent. -/
theorem twoTimeoutsThenAckCompletes : Obligations.TwoTimeoutsThenAckCompletes := by
  unfold Obligations.TwoTimeoutsThenAckCompletes
  intro s q reqs rest t0 t1 u1 t2 u2 u3 a0 b1 a1 b2 a2 b3 a3 h0 hf hq hack hw1 hw2 hin
  obtain ⟨c, os, hsends, hc0, hr, hreqs, hs⟩ := performs_threeSends h0 hf hq hack hw1 hw2 u2 a0 b1 a1 b2 a2
  have hall := hsends.append (performs_ackCompletes (t := u2) (v := u3) hc0 a2 b3 a3)
  obtain ⟨hrun, hout⟩ := hall.core_run (k := 7) rfl hin
  refine ⟨_, ⟨⟨0x080#48, []⟩, none⟩, hrun, rfl, ?_, rfl, hr,
    (hreqs.afterSend u2 a2).raiseAck.goPoll_start .done, ?_, ?_, rfl⟩
  · rw [runSends, hout, sendsOf_append, hs]; rfl
  · rw [hout]; exact hall.length_eq
  · rw [hout]; exact List.getLast?_append_cons os _ [_]

end Sys2Proof.Machine
end

section
/-! PROOFS. The protocol codec: the place of every part of a frame, that `deserialize` gives a serialized packet back, and
that it rejects a frame with one changed byte (spec/42_codec.md R141 to R150). -/

namespace Sys2Proof.Machine

/-! ### Reading little-endian numbers (R40) -/

/-- A number written behind `l` is read at offset `l.length`. -/
theorem le16At_append {l : List Byte} {k : Nat} (hk : k = l.length) (v : BitVec 16) (r : List Byte) :
    le16At (l ++ le16 v ++ r) k = v := by
  subst hk
  simp [le16At, le16, le16_join]

theorem le32At_append {l : List Byte} {k : Nat} (hk : k = l.length) (v : BitVec 32) (r : List Byte) :
    le32At (l ++ le32 v ++ r) k = v := by
  subst hk
  simp [le32At, le32, le32_join]

theorem append_inj_iff {m n : Nat} {x x' : BitVec m} {y y' : BitVec n} :
    x ++ y = x' ++ y' ↔ x = x' ∧ y = y' := by
  refine ⟨fun h => ⟨?_, ?_⟩, fun ⟨hx, hy⟩ => hx ▸ hy ▸ rfl⟩
  · simpa only [BitVec.extractLsb'_append_eq_left] using congrArg (·.extractLsb' n m) h
  · simpa only [BitVec.extractLsb'_append_eq_right] using congrArg (·.extractLsb' 0 n) h

/-- Two sequences read the same number at an offset just when they read the same bytes there. -/
theorem le16At_eq_iff {f g : List Byte} {j : Nat} :
    le16At f j = le16At g j ↔ f.getD (j + 1) 0 = g.getD (j + 1) 0 ∧ f.getD j 0 = g.getD j 0 :=
  append_inj_iff

theorem le32At_eq_iff {f g : List Byte} {j : Nat} :
    le32At f j = le32At g j ↔ ((f.getD (j + 3) 0 = g.getD (j + 3) 0 ∧ f.getD (j + 2) 0 = g.getD (j + 2) 0) ∧
      f.getD (j + 1) 0 = g.getD (j + 1) 0) ∧ f.getD j 0 = g.getD j 0 :=
  append_inj_iff.trans (and_congr_left' (append_inj_iff.trans (and_congr_left' append_inj_iff)))

/-! ### The parts of a frame (R141, R142, R145) -/

section
variable (crc : List Byte → BitVec 32) (t d : Byte) (n : BitVec 16) (p : List Byte)

/-- A frame begins with preamble and header. -/
theorem serializeWith_take_six : (serializeWith crc t d n p).take 6 =
    [0x7F#8, 0xFF#8, t, d, n.extractLsb' 0 8, n.extractLsb' 8 8] := rfl

/-- Behind the header stand payload, checksum and postamble. -/
theorem serializeWith_drop_six : (serializeWith crc t d n p).drop 6 =
    p ++ (le32 (crc (headerBytes t d n ++ p)) ++ le16 Config.postamble) := by
  rw [← List.append_assoc]; rfl

theorem le16At_serializeWith_preamble : le16At (serializeWith crc t d n p) 0 = Config.preamble :=
  le16At_append (l := []) rfl Config.preamble _

theorem le16At_serializeWith_length : le16At (serializeWith crc t d n p) 4 = n :=
  le16At_append (l := le16 Config.preamble ++ [t, d]) rfl n _

variable {n p} (hp : p.length = n.toNat)
include hp

theorem serializeWith_payload : ((serializeWith crc t d n p).drop 6).take n.toNat = p := by
  rw [serializeWith_drop_six, List.take_left' hp]

/-- The last six bytes are checksum and postamble. -/
theorem serializeWith_drop_payload : (serializeWith crc t d n p).drop (6 + n.toNat) =
    le32 (crc (headerBytes t d n ++ p)) ++ le16 Config.postamble := by
  rw [← List.drop_drop, serializeWith_drop_six, List.drop_left' hp]

/-- What the checksum covers is header and payload. -/
theorem serializeWith_covered :
    ((serializeWith crc t d n p).drop 2).take (4 + n.toNat) = headerBytes t d n ++ p := by
  have hlen : (headerBytes t d n ++ p).length = 4 + n.toNat := by
    rw [List.length_append, hp]; rfl
  have hdrop : (serializeWith crc t d n p).drop 2 =
      (headerBytes t d n ++ p) ++ le32 (crc (headerBytes t d n ++ p)) ++ le16 Config.postamble := rfl
  rw [hdrop, List.append_assoc, List.take_left' hlen]

theorem le16At_serializeWith_postamble :
    le16At (serializeWith crc t d n p) (10 + n.toNat) = Config.postamble := by
  have h := le16At_append (k := 10 + n.toNat)
    (l := le16 Config.preamble ++ (headerBytes t d n ++ p) ++ le32 (crc (headerBytes t d n ++ p)))
    (by simp [headerBytes, hp]; omega) Config.postamble []
  rwa [List.append_nil] at h

/-- The checksum field holds the checksum of the covered bytes. -/
theorem le32At_serializeWith_checksum : le32At (serializeWith crc t d n p) (6 + n.toNat) =
    crc (((serializeWith crc t d n p).drop 2).take (4 + n.toNat)) := by
  rw [serializeWith_covered crc t d hp]
  exact le32At_append (l := le16 Config.preamble ++ (headerBytes t d n ++ p)) (by simp [headerBytes, hp]; omega) _ _

end

/-- The frame tells the inputs: `take 6` holds all but the payload, whose length it holds too. -/
theorem serializeWith_injective (crc : List Byte → BitVec 32) {t d t' d' : Byte} {n n' : BitVec 16} {p p' : List Byte}
    (hp : p.length = n.toNat) (hp' : p'.length = n'.toNat)
    (h : serializeWith crc t d n p = serializeWith crc t' d' n' p') : t = t' ∧ d = d' ∧ n = n' ∧ p = p' := by
  have hn : n = n' := by
    rw [← le16At_serializeWith_length crc t d n p, h, le16At_serializeWith_length]
  subst hn
  have hpayload : p = p' := by
    rw [← serializeWith_payload crc t d hp, h, serializeWith_payload crc t' d' hp']
  have hhead : t = t' ∧ d = d' := by
    simpa only [serializeWith_take_six, List.cons.injEq, and_true, true_and] using congrArg (List.take 6) h
  exact ⟨hhead.1, hhead.2, rfl, hpayload⟩

/-- Settles O48: each part is read off the concatenation that R141 writes. -/
theorem frameLayout : Obligations.FrameLayout := by
  unfold Obligations.FrameLayout
  intro crc t d n p hp
  refine ⟨?_, serializeWith_take_six crc t d n p, serializeWith_payload crc t d hp, ?_,
    fun t' d' n' p' hp' => serializeWith_injective crc hp hp'⟩
  · rw [serializeWith_length, hp]
  · rw [serializeWith_covered crc t d hp, serializeWith_drop_payload crc t d hp]; rfl

/-! ### The checks of `deserialize` (R150) -/

/-- A frame whose preamble, length field and length pass the checks of `deserialize`; postamble and checksum are left. -/
structure HeaderAccepted (f : List Byte) (n : BitVec 16) : Prop where
  preamble : le16At f 0 = Config.preamble
  lengthField : le16At f 4 = n
  small : n.toNat ≤ 256
  length : f.length = 12 + n.toNat

theorem headerAccepted_serializeWith (crc : List Byte → BitVec 32) (t d : Byte) {n : BitVec 16} {p : List Byte}
    (hn : n.toNat ≤ 256) (hp : p.length = n.toNat) : HeaderAccepted (serializeWith crc t d n p) n where
  preamble := le16At_serializeWith_preamble crc t d n p
  lengthField := le16At_serializeWith_length crc t d n p
  small := hn
  length := by rw [serializeWith_length, hp]

section
variable {crc : List Byte → BitVec 32} {f : List Byte} {n : BitVec 16}

theorem deserializeWith_badPreamble (hlen : 12 ≤ f.length) (hpre : le16At f 0 ≠ Config.preamble) :
    deserializeWith crc f = .error .badPreamble := by
  unfold deserializeWith
  rw [if_neg (not_lt.2 hlen), if_pos hpre]

/-- A length field that does not fit the frame fails one of the two checks of the length. -/
theorem deserializeWith_lengthRejected (hlen : 12 ≤ f.length) (hpre : le16At f 0 = Config.preamble)
    (hne : f.length ≠ frameLen (le16At f 4).toNat) :
    ∃ r, deserializeWith crc f = .error r ∧ (r = .badLength ∨ r = .badFrameLength) := by
  unfold deserializeWith
  rw [if_neg (not_lt.2 hlen), if_neg (not_not.2 hpre)]
  by_cases hmax : Config.maxPayloadSize < (le16At f 4).toNat
  · exact ⟨_, if_pos hmax, .inl rfl⟩
  · exact ⟨_, (if_neg hmax).trans (if_pos hne), .inr rfl⟩

theorem HeaderAccepted.twelve_le (h : HeaderAccepted f n) : 12 ≤ f.length :=
  h.length ▸ Nat.le_add_right 12 _

/-- Behind an accepted header the postamble is checked first, then the checksum. -/
theorem HeaderAccepted.deserializeWith_eq (h : HeaderAccepted f n) : deserializeWith crc f =
    if le16At f (10 + n.toNat) ≠ Config.postamble then .error .badPostamble
    else if le32At f (6 + n.toNat) ≠ crc ((f.drop 2).take (4 + n.toNat)) then .error .crcMismatch
    else .ok ⟨f.getD 2 0, f.getD 3 0, n, (f.drop 6).take n.toNat⟩ := by
  have hlen : f.length = frameLen n.toNat := h.length
  unfold deserializeWith
  rw [h.lengthField, if_neg (not_lt.2 h.twelve_le), if_neg (not_not.2 h.preamble), if_neg (not_lt.2 h.small),
    if_neg (not_not.2 hlen)]

end

/-- Settles O49: a serialized packet passes every check, and each part stands where `deserialize` reads it. -/
theorem deserializeInvertsSerialize : Obligations.DeserializeInvertsSerialize := by
  unfold Obligations.DeserializeInvertsSerialize
  intro crc t d n p hn hp _
  rw [(headerAccepted_serializeWith crc t d hn hp).deserializeWith_eq,
    if_neg (not_not.2 (le16At_serializeWith_postamble crc t d hp)),
    if_neg (not_not.2 (le32At_serializeWith_checksum crc t d hp)), serializeWith_payload crc t d hp]
  rfl

/-! ### One changed byte (R147) -/

section
variable {f : List Byte} {k j : Nat} {b : Byte}

theorem getD_set_of_ne (h : k ≠ j) : (f.set k b).getD j 0 = f.getD j 0 := by
  simp [List.getD_eq_getElem?_getD, List.getElem?_set_ne h]

theorem le16At_set_of_ne (h0 : k ≠ j) (h1 : k ≠ j + 1) : le16At (f.set k b) j = le16At f j :=
  le16At_eq_iff.2 ⟨getD_set_of_ne h1, getD_set_of_ne h0⟩

theorem le32At_set_of_outside (h : k < j ∨ j + 4 ≤ k) : le32At (f.set k b) j = le32At f j :=
  le32At_eq_iff.2 ⟨⟨⟨getD_set_of_ne (by omega), getD_set_of_ne (by omega)⟩, getD_set_of_ne (by omega)⟩,
    getD_set_of_ne (by omega)⟩

variable (hk : k < f.length) (hb : f[k]? ≠ some b)
include hk hb

theorem getD_set_ne : (f.set k b).getD k 0 ≠ f.getD k 0 := by
  intro h
  rw [List.getD_eq_getElem _ _ (by simpa using hk), List.getD_eq_getElem _ _ hk, List.getElem_set_self] at h
  exact hb (h ▸ List.getElem?_eq_getElem hk)

/-- A changed byte of a number changes the number. -/
theorem le16At_set_ne (hj : j ≤ k) (hj2 : k < j + 2) : le16At (f.set k b) j ≠ le16At f j := by
  intro h
  obtain ⟨h1, h0⟩ := le16At_eq_iff.1 h
  obtain rfl | rfl : k = j ∨ k = j + 1 := by omega
  · exact getD_set_ne hk hb h0
  · exact getD_set_ne hk hb h1

theorem le32At_set_ne (hj : j ≤ k) (hj4 : k < j + 4) : le32At (f.set k b) j ≠ le32At f j := by
  intro h
  obtain ⟨⟨⟨h3, h2⟩, h1⟩, h0⟩ := le32At_eq_iff.1 h
  obtain rfl | rfl | rfl | rfl : k = j ∨ k = j + 1 ∨ k = j + 2 ∨ k = j + 3 := by omega
  · exact getD_set_ne hk hb h0
  · exact getD_set_ne hk hb h1
  · exact getD_set_ne hk hb h2
  · exact getD_set_ne hk hb h3

end

/-- The CRC register detects a changed byte: the step at that byte takes different bytes to different values, and the steps
behind it keep them different (R143, R147). -/
theorem crcBytes_set_ne {l : List Byte} {k : Nat} {b : Byte} (c : BitVec 32) (hk : k < l.length) (hb : l[k]? ≠ some b) :
    crcBytes c (l.set k b) ≠ crcBytes c l := by
  induction l generalizing k c with
  | nil => simp at hk
  | cons a l ih =>
    cases k with
    | zero =>
      intro h
      have hba : b = a := crcByte_injective_byte (crcBytes_injective_register l h)
      exact hb (by rw [hba]; rfl)
    | succ k => exact ih _ (by simpa using hk) (by simpa using hb)

theorem crc32_set_ne {l : List Byte} {k : Nat} {b : Byte} (hk : k < l.length) (hb : l[k]? ≠ some b) :
    crc32 (l.set k b) ≠ crc32 l :=
  fun h => crcBytes_set_ne _ hk hb ((BitVec.xor_left_inj _).1 h)

/-- A changed byte outside preamble and length field leaves the header accepted. -/
theorem HeaderAccepted.set {f : List Byte} {n : BitVec 16} (h : HeaderAccepted f n) {k : Nat} (b : Byte)
    (hpre : 2 ≤ k) (hlow : k ≠ 4) (hhigh : k ≠ 5) : HeaderAccepted (f.set k b) n where
  preamble := (le16At_set_of_ne (by omega) (by omega)).trans h.preamble
  lengthField := (le16At_set_of_ne hlow hhigh).trans h.lengthField
  small := h.small
  length := (List.length_set ..).trans h.length

section
variable {crc : List Byte → BitVec 32} {f : List Byte} {n : BitVec 16} {k : Nat} {b : Byte}
  (h : HeaderAccepted f n) (hk : k < f.length) (hb : f[k]? ≠ some b)
include h hk hb

theorem deserializeWith_set_preamble (hpre : k < 2) : deserializeWith crc (f.set k b) = .error .badPreamble := by
  refine deserializeWith_badPreamble (by simpa using h.twelve_le) ?_
  rw [← h.preamble]
  exact le16At_set_ne hk hb (by omega) (by omega)

/-- A changed length field no longer fits the length of the frame. -/
theorem deserializeWith_set_length (h4 : 4 ≤ k) (h6 : k < 6) :
    ∃ r, deserializeWith crc (f.set k b) = .error r ∧ (r = .badLength ∨ r = .badFrameLength) := by
  refine deserializeWith_lengthRejected (by simpa using h.twelve_le)
    ((le16At_set_of_ne (by omega) (by omega)).trans h.preamble) fun hlen => ?_
  rw [List.length_set, h.length] at hlen
  have hsame : n = le16At (f.set k b) 4 := BitVec.eq_of_toNat_eq (Nat.add_left_cancel hlen)
  exact le16At_set_ne hk hb h4 h6 (hsame.symm.trans h.lengthField.symm)

theorem deserializeWith_set_postamble (hpost : le16At f (10 + n.toNat) = Config.postamble)
    (hk10 : 10 + n.toNat ≤ k) : deserializeWith crc (f.set k b) = .error .badPostamble := by
  have hend : k < 10 + n.toNat + 2 := by have := h.length; omega
  rw [(h.set b (by omega) (by omega) (by omega)).deserializeWith_eq, if_pos]
  rw [← hpost]
  exact le16At_set_ne hk hb hk10 hend

/-- A changed byte that the checksum covers changes the checksum of the covered bytes and not the checksum field; a changed
byte of the checksum field does the converse. -/
theorem deserialize_set_checksum (hpost : le16At f (10 + n.toNat) = Config.postamble)
    (hsum : le32At f (6 + n.toNat) = crc32 ((f.drop 2).take (4 + n.toNat)))
    (hkc : 2 ≤ k ∧ k < 4 ∨ 6 ≤ k ∧ k < 10 + n.toNat) : deserialize (f.set k b) = .error .crcMismatch := by
  have hcovered : ((f.set k b).drop 2).take (4 + n.toNat) = ((f.drop 2).take (4 + n.toNat)).set (k - 2) b := by
    rw [List.drop_set, if_neg (by omega), List.take_set]
  have hlen : ((f.drop 2).take (4 + n.toNat)).length = 4 + n.toNat := by
    rw [List.length_take, List.length_drop, h.length]; omega
  rw [deserialize, (h.set b (by omega) (by omega) (by omega)).deserializeWith_eq,
    le16At_set_of_ne (by omega) (by omega), if_neg (not_not.2 hpost), if_pos]
  rw [hcovered]
  by_cases hk6 : k < 6 + n.toNat
  · rw [le32At_set_of_outside (.inl hk6), hsum]
    have hbyte : ((f.drop 2).take (4 + n.toNat))[k - 2]? = f[k]? := by
      rw [List.getElem?_take_of_lt (by omega), List.getElem?_drop, Nat.add_sub_cancel' (by omega)]
    exact (crc32_set_ne (by omega) (hbyte ▸ hb)).symm
  · rw [List.set_eq_of_length_le (i := k - 2) (by omega), ← hsum]
    exact le32At_set_ne hk hb (by omega) (by omega)

end

/-- Settles O50: the four ranges of offsets, each with the check that covers it. -/
theorem singleByteCorruptionIsRejected : Obligations.SingleByteCorruptionIsRejected := by
  unfold Obligations.SingleByteCorruptionIsRejected
  intro t d n p k b hn hp _ hk hb
  have hframe : HeaderAccepted (serialize t d n p) n := headerAccepted_serializeWith crc32 t d hn hp
  have hpost : le16At (serialize t d n p) (10 + n.toNat) = Config.postamble := le16At_serializeWith_postamble crc32 t d hp
  have hlen : k < (serialize t d n p).length := hframe.length ▸ hk
  have hranges : k < 2 ∨ (4 ≤ k ∧ k < 6) ∨ (2 ≤ k ∧ k < 4 ∨ 6 ≤ k ∧ k < 10 + n.toNat) ∨ 10 + n.toNat ≤ k := by omega
  rcases hranges with hpreamble | ⟨h4, h6⟩ | hchecksum | hpostamble
  · refine ⟨_, deserializeWith_set_preamble hframe hlen hb hpreamble, fun _ => rfl, ?_, ?_, ?_⟩ <;> omega
  · obtain ⟨r, hr, hwhich⟩ := deserializeWith_set_length (crc := crc32) hframe hlen hb h4 h6
    refine ⟨r, hr, ?_, fun _ => hwhich, ?_, ?_⟩ <;> omega
  · refine ⟨_, deserialize_set_checksum hframe hlen hb hpost (le32At_serializeWith_checksum crc32 t d hp) hchecksum,
      ?_, ?_, fun _ => rfl, ?_⟩ <;> omega
  · refine ⟨_, deserializeWith_set_postamble hframe hlen hb hpost hpostamble, ?_, ?_, ?_, fun _ => rfl⟩ <;> omega

/-- Settles O51: the checksum and the frame evaluated. -/
theorem crc32CheckValues : Obligations.Crc32CheckValues := by
  unfold Obligations.Crc32CheckValues
  decide +kernel

end Sys2Proof.Machine
end

section
/-! PROOFS. The error conditions: the length test of WRITE_REQUEST (spec/60_exceptions.md R163), and that a run which INIT or
`rst` begins meets neither the model's fault nor the refusal of an operation before INIT (R178; spec/70_reset_and_hazards.md
R192). -/

namespace Sys2Proof.Machine

/-! ### The length test of WRITE_REQUEST (R163) -/

/-- A request over the maximum length is rejected whatever space is left, and the block stays as it is. -/
theorem writeRequest_eq_payloadTooLarge {q : TxRequest} {b : Block} (hbig : 256 < q.payloadLength.toNat) :
    writeRequest q b = (.payloadTooLarge, b) := by
  rcases writeRequest_cases q b with ⟨-, e⟩ | ⟨hle, -, -⟩ | ⟨hle, -, -⟩
  · exact e
  · omega
  · omega

/-- Settles O12. -/
theorem writeRejectsOversizedPayload : Obligations.WriteRejectsOversizedPayload := by
  unfold Obligations.WriteRejectsOversizedPayload
  intro s src ack typ dir len p h hbig
  have hw : writeRequest (requestOf src ack typ dir len p) s.toBlock = (.payloadTooLarge, s.toBlock) :=
    writeRequest_eq_payloadTooLarge hbig
  simpa only [wordRS_payloadTooLarge] using exec_writeRequest h hw

/-! ### Refusals (R192) -/

/-- A guarded operation whose meaning refuses nothing is refused only before INIT. -/
theorem whenInitialised_eq_refused {b : Block} {p : Performed} {r : Refusal} (h : whenInitialised b p = .refused r)
    (hp : p ≠ .refused r) : b.initialised = false := by
  cases h0 : b.initialised with
  | false => rfl
  | true => rw [whenInitialised_true h0] at h; exact absurd h hp

/-- An operation is refused only before INIT or `rst`: the converse of `perform_uninitialised`. -/
theorem perform_eq_refused {i : Instr} {a : SendAnswer} {b : Block} {r : Refusal} (h : perform i a b = .refused r) :
    b.initialised = false := by
  cases i
  case init => cases h
  case run now =>
    refine whenInitialised_eq_refused h ?_
    cases runTick now a b <;> exact nofun
  case fetchRequest =>
    refine whenInitialised_eq_refused h ?_
    rcases peekRequest_cases b with ⟨-, e⟩ | ⟨-, q, -, e⟩ | ⟨-, -, e⟩ <;> rw [e] <;> exact nofun
  all_goals exact whenInitialised_eq_refused h nofun

/-- No step from an initialised block is refused for want of initialisation. -/
theorem step_ne_notInitialised {s : State} (h : s.initialised = true) : step s ≠ .refused .notInitialised := by
  intro hs
  rcases step_cases s with ⟨-, e⟩ | ⟨rest, -, e⟩ | ⟨w, bytes, a, rest, -, e⟩ | ⟨w, bytes, a, rest, i, -, -, e⟩ <;>
    rw [e] at hs
  · cases hs
  · cases hs
  · cases hs
  · rw [takeInput_exec] at hs
    cases hp : perform i (presentedAnswer s) s.toBlock with
    | next e => rw [hp] at hs; cases hs
    | fault f => rw [hp] at hs; cases hs
    | refused r => exact Bool.false_ne_true ((perform_eq_refused hp).symm.trans h)

/-! ### Runs -/

/-- A run from a state of an invariant that every step keeps ends in a state of the invariant, or as a step from one does:
the induction on the number of steps, done once for every invariant. -/
theorem run_of_invariant {P : State → Prop} (hstep : ∀ s t, P s → step s = .next t → P t) (k : Nat) {s : State}
    (h : P s) : ∃ t, P t ∧ (Sys2Proof.core.run k s = .next t ∨ Sys2Proof.core.run k s = step t) := by
  induction k generalizing s with
  | zero => exact ⟨s, h, .inl rfl⟩
  | succ k ih =>
    cases hs : step s with
    | next t => rw [run_succ_of_next k hs]; exact ih (hstep s t h hs)
    | fault f => exact ⟨s, h, .inr (by simp only [Host.Core.run, Sys2Proof.core, hs])⟩
    | refused r => exact ⟨s, h, .inr (by simp only [Host.Core.run, Sys2Proof.core, hs])⟩

/-- Duty 1 of R178 is met: the invariants hold, or INIT or `rst` is still to come and comes before anything else. -/
def InvOrInitFirst (s : State) : Prop := Inv s.toBlock ∨ (Shape s.toBlock ∧ initFirst s.inputs = true)

/-- INIT or `rst`, presented first, completes and establishes the invariants; with nothing presented nothing happens. -/
theorem step_initFirst {s : State} (h : Shape s.toBlock) (hin : initFirst s.inputs = true) :
    ∃ t, step s = .next t ∧ InvOrInitFirst t := by
  cases hs : s.inputs with
  | nil => exact ⟨s, by simp only [step, hs], .inr ⟨h, hin⟩⟩
  | cons x rest =>
    cases x with
    | rst => exact ⟨takeReset rest s, by simp only [step, hs], .inl (inv_initialise h)⟩
    | command w bytes a =>
      have hop : opField w = Instr.init.opcode := by simpa only [hs, initFirst, decide_eq_true_eq] using hin
      have hd : decode w bytes = .ok .init := decode_codeOnly bytes List.mem_cons_self hop
      exact ⟨⟨initialise s.toBlock, rest⟩, (step_of_perform hs hd rfl).1, .inl (inv_initialise h)⟩

theorem InvOrInitFirst.step_next {s t : State} (h : InvOrInitFirst s) (hs : step s = .next t) : InvOrInitFirst t := by
  rcases h with hinv | ⟨hshape, hin⟩
  · exact .inl (stepKeepsTheInvariants s t hinv hs)
  · obtain ⟨t', ht, h'⟩ := step_initFirst hshape hin
    rw [hs] at ht
    cases ht
    exact h'

/-- Where duty 1 is met, no step ends in the model's fault or in the refusal before INIT. -/
theorem InvOrInitFirst.step_ne {s : State} (h : InvOrInitFirst s) :
    (∀ f, step s ≠ .fault f) ∧ step s ≠ .refused .notInitialised := by
  rcases h with hinv | ⟨hshape, hin⟩
  · exact ⟨fun f => invariantsRuleOutFaults s f hinv, step_ne_notInitialised hinv.initialised⟩
  · obtain ⟨t, ht, -⟩ := step_initFirst hshape hin
    rw [ht]
    exact ⟨nofun, nofun⟩

/-- Settles O60: that INIT or `rst` comes first, or that the invariants hold, is kept by every step and rules both stops
out. -/
theorem initFirstRunsNeverFault : Obligations.InitFirstRunsNeverFault := by
  unfold Obligations.InitFirstRunsNeverFault
  intro s k hshape hin
  obtain ⟨t, ht, hrun | hrun⟩ := run_of_invariant (fun _ _ => InvOrInitFirst.step_next) k (.inr ⟨hshape, hin⟩) <;>
    rw [hrun]
  · exact ⟨nofun, nofun⟩
  · exact ht.step_ne

end Sys2Proof.Machine
end

section
/-! PROOFS. Reset and the idle block (spec/70_reset_and_hazards.md R190, R191, R194): `rst` leaves what INIT leaves, and
nothing but a WRITE_REQUEST gets an idle block to send. -/

namespace Sys2Proof.Machine

/-! ### The reset input (R190, R191) -/

/-- A step on the reset input completes, takes it off, and puts nothing out. -/
theorem step_rst {s : State} {rest : List Input} (h : s.inputs = .rst :: rest) :
    step s = .next (takeReset rest s) ∧ stepOutput s = none := by
  simp only [step, stepOutput, h, and_self]

/-- Settles O7: INIT and `rst` both leave `initialise` of the block. -/
theorem rstHasTheEffectOfInit : Obligations.RstHasTheEffectOfInit := by
  unfold Obligations.RstHasTheEffectOfInit
  intro s rest h
  obtain ⟨hinit, -⟩ := initResetsTheBlock s
  obtain ⟨hstep, hout⟩ := step_rst h
  exact ⟨_, takeReset rest s, hinit, hstep, rfl, rfl, hout⟩

/-! ### The idle block (R194) -/

theorem idle_initialise (b : Block) : Idle (initialise b) := ⟨rfl, rfl⟩

/-- A tick that completes on an idle block is the one that changes nothing and sends nothing (R126). -/
theorem Idle.runTick_eq_start {t : BitVec 32} {a : SendAnswer} {b : Block} {x : Tick} (h : Idle b)
    (hx : runTick t a b = .ok x) : x = .start b := by
  rw [runTick_idle t a h.1 h.2] at hx
  exact (Except.ok.inj hx).symm

/-- An operation other than WRITE_REQUEST makes no send from an idle block and leaves it idle: a RUN finds nothing to
dequeue, and no other operation but INIT writes the FSM's state or the number of requests. -/
theorem Idle.perform {i : Instr} {a : SendAnswer} {b : Block} {e : Effect} (h : Idle b) (hi : i.opcode ≠ 0x5#4)
    (hp : perform i a b = .next e) : e.output.send = none ∧ Idle e.block := by
  rcases perform_cases hp with ⟨-, rfl⟩ | ⟨now, x, -, -, hx, rfl⟩ | ⟨now, -, -, rfl⟩ | ⟨-, -, rfl⟩ | ⟨-, -, rfl⟩ |
      ⟨src, ack, typ, dir, len, p, rfl, -, -⟩ | ⟨-, -, w, p, rfl⟩
  · exact ⟨rfl, idle_initialise b⟩
  · rw [h.runTick_eq_start hx]; exact ⟨rfl, h⟩
  · rw [examineTimer_eq]; exact ⟨rfl, h⟩
  · exact ⟨rfl, h⟩
  · exact ⟨rfl, h⟩
  · exact absurd rfl hi
  · exact ⟨rfl, h⟩

/-- Settles O47. -/
theorem idleBlockSendsNothing : Obligations.IdleBlockSendsNothing := by
  unfold Obligations.IdleBlockSendsNothing
  intro i s t h hi hexec
  obtain ⟨e, hp, hout, rfl⟩ := exec_eq_next.1 hexec
  obtain ⟨hsend, hidle⟩ := h.perform hi hp
  refine ⟨e.output, hout, hsend, hidle, ?run⟩
  rintro now rfl
  obtain ⟨-, x, hx, rfl⟩ := performRun_eq_next.1 hp
  rw [h.runTick_eq_start hx]
  rfl

end Sys2Proof.Machine
end
